-- ==== Sys2Proof/Word.lean ====
section
/-! DEFINITION. The word types of 00_scope.md R11: `uN` is an unsigned bit vector of N bits, `i64` a 64-bit
two's-complement value. Arithmetic on them wraps modulo 2^N (R11); no rule of the unit adds or compares them by order. -/

namespace Sys2Proof

/-- One byte: an opcode, an attribute, an in-service byte, a vector number. -/
abbrev Byte := BitVec 8

/-- R11 `u16`: a segment selector, the Table Pointer's limit. -/
abbrev U16 := BitVec 16

/-- R11 `u64`: an address. -/
abbrev U64 := BitVec 64

/-- R11 `i64`: a field of the trap record. The unit compares such a field for equality only (30_encoding.md R77),
so its sign never changes a result. -/
abbrev I64 := BitVec 64

/-- R11 `u128`: one 16-byte slot of the Interrupt Table. -/
abbrev U128 := BitVec 128

end Sys2Proof
end

