-- ==== Sys2Proof/Config.lean ====
section
/-! DEFINITION. What the platform fixes (00_scope.md R9) and what the environment draws (R10). -/

namespace Sys2Proof

/-- The parameters the source leaves open (00_scope.md R9), which "a model takes as an argument". The machine carries
them in a field of its state that no step writes (10_state.md R21), so that a statement about every state is a
statement about every configuration. DESIGN CHOICE, log entry 1. -/
structure Config where
  /-- `KERNEL_CS`, the kernel code-segment selector. -/
  kernelCs    : U16
  /-- `IDT_BASE`, the byte address of the Interrupt Table. -/
  idtBase     : U64
  /-- `TRAMPOLINE_ADDR(v)` for the 20 supported vectors, in ascending vector order. -/
  trampolines : Vector U64 20
  /-- `GPR_ORDER`: the names of record fields 0..14. -/
  gprOrder    : Vector String 15
deriving DecidableEq, Repr, Inhabited

/-- The configuration of the machine that `State.reset` starts. It has no body: the spec gives none of its values (R9),
so no proof can rest on one. DESIGN CHOICE, log entry 1. -/
opaque Config.platform : Config

/-- R10 `isr_draw`: the byte that the n-th read of the in-service byte returns, where no `isr` move fixed it. Free value.
DESIGN CHOICE, log entry 7. -/
opaque Config.isrDraw : Nat → Byte

/-- R10 `errcode_draw`: the error-code field of the n-th delivered record. Free value. DESIGN CHOICE, log entry 8. -/
opaque Config.errcodeDraw : Nat → I64

end Sys2Proof
end

