-- ==== Sys2Proof/Machine/Constants.lean ====
section
/-! DEFINITION. The fixed constants of 00_scope.md R8 ("None of these may vary between implementations"), and the
configuration read through them. -/

namespace Sys2Proof.Machine

/-- R8 `NVEC`. -/
def nvec : Nat := 256

/-- R8 `DESC_BYTES`. -/
def descBytes : Nat := 16

/-- R8 `TABLE_BYTES` = 256 × 16. -/
def tableBytes : Nat := 4096

/-- R8 `TP_BYTES`. -/
def tpBytes : Nat := 10

/-- R8 `TP_LIMIT`: the table's size minus one. -/
def tpLimit : U16 := 0x0FFF

/-- R8 `GATE_ATTR`: the one attribute INIT uses (41_installer.md R128). -/
def gateAttr : Byte := 0x8E

/-- R8 `SUPPORTED`, ascending. -/
def supported : List Byte := [0, 1, 2, 3, 4, 5, 6, 7, 8, 10, 11, 12, 13, 14, 16, 17, 18, 19, 32, 39]

/-- R8 `VEC_TIMER`, as a trap number. -/
def vecTimer : I64 := 32

/-- R8 `VEC_SPURIOUS`, as a trap number. -/
def vecSpurious : I64 := 39

/-- R8 `ISR_REAL_BIT`. -/
def isrRealBit : Nat := 7

/-- R8 `REC_FIELDS`. -/
def recFields : Nat := 22

/-- R8 `REC_BYTES` = 22 × 8. -/
def recBytes : Nat := 176

/-- R8 `TRAPNO_INDEX`: the trap number's place among the record's fields. -/
def trapnoIndex : Nat := 15

/-- The handler of each supported vector: what INIT goes through, in ascending vector order (41_installer.md R121). -/
def handlers (c : Config) : List (Byte × U64) := supported.zip c.trampolines.toList

/-- R9 `TRAMPOLINE_ADDR(v)`, defined only on the supported vectors (90_conflicts.md C5). -/
def trampolineAddr? (c : Config) (v : Byte) : Option U64 := (handlers c).lookup v

/-- R9: "A configuration is well formed only if `IDT_BASE <= 2^64 - 4096`". -/
def tableFits (c : Config) : Bool := c.idtBase.toNat ≤ 2 ^ 64 - tableBytes

end Sys2Proof.Machine
end

