-- ==== Sys2Proof/Machine/Flags.lean ====
section
/-! DEFINITION. The unit has no flags or condition codes (10_state.md R34). Its one bit test (00_scope.md R14) is that of
the in-service byte. -/

namespace Sys2Proof.Machine

/-- 42_dispatcher.md R143 `b[7] = 1`: "bit 7 set indicates a real (non-spurious) signal". -/
def isrReal (b : Byte) : Bool := b.getLsbD isrRealBit

end Sys2Proof.Machine
end

