-- ==== Sys2Proof/Syntax.lean ====
section
/-! DEFINITION. The instructions: one constructor per row of spec/opcode_table.json. -/

namespace Sys2Proof

/-- The trap record (10_state.md R30): 22 signed 64-bit fields, "15 general-purpose registers, trap number, error
code, then the hardware-pushed instruction pointer, code segment, flags, stack pointer, stack segment". -/
structure TrapRecord where
  gpr     : Vector I64 15
  trapno  : I64
  errcode : I64
  rip     : I64
  cs      : I64
  rflags  : I64
  rsp     : I64
  ss      : I64
deriving DecidableEq, Repr

/-- The two formats of the opcode table: the unit's command byte with its operand buses (30_encoding.md R81), and the
64-bit trap number by which DISPATCH selects its action (R84). -/
inductive Format where
  | cmd8
  | trapno64
deriving DecidableEq, Repr

/-- The opcode table's rows. The last three are the rows of the dispatcher's selection table (R84): a DISPATCH command
reaches them through its record's trap number. DESIGN CHOICE, log entry 21. -/
inductive Instr where
  /-- ENCODE (40_encoder.md R100): operand A `address: u64`, operand B `attribute: u8`. -/
  | encode (address : U64) (attr : Byte)
  /-- INIT (41_installer.md R121): no operand. -/
  | init
  /-- DISPATCH (42_dispatcher.md R140): operand A, the trap record. -/
  | dispatch (record : TrapRecord)
  /-- DISPATCH.TIMER (42_dispatcher.md R142): trap number 32. -/
  | dispatchTimer
  /-- DISPATCH.SPURIOUS_CHECK (42_dispatcher.md R143): trap number 39. -/
  | dispatchSpuriousCheck
  /-- DISPATCH.FATAL (42_dispatcher.md R145): every other trap number. -/
  | dispatchFatal (trapno : I64)
deriving DecidableEq, Repr

/-- The format of an instruction's row. -/
def Instr.format : Instr → Format
  | .encode _ _ => .cmd8
  | .init => .cmd8
  | .dispatch _ => .cmd8
  | .dispatchTimer => .trapno64
  | .dispatchSpuriousCheck => .trapno64
  | .dispatchFatal _ => .trapno64

end Sys2Proof
end

