-- ==== Sys2Proof/WellFormed.lean ====
section
/-! DEFINITION. Which instructions the encodings can express. -/

namespace Sys2Proof

/-- The operands' types bound every field, so the one check left is that of the selection table: a FATAL row is
selected only when no row of higher priority matches (30_encoding.md R84). -/
def Instr.wf : Instr → Bool
  | .encode _ _ => true
  | .init => true
  | .dispatch _ => true
  | .dispatchTimer => true
  | .dispatchSpuriousCheck => true
  | .dispatchFatal t => t ≠ 32 && t ≠ 39

end Sys2Proof
end

