-- ==== Sys2Proof/Decode.lean ====
section
/-! DEFINITION. The byte images of commands and records (30_encoding.md), read and written. All multi-byte fields are
little-endian (20_memory.md R53; PRESUMED, log entry 3). -/

namespace Sys2Proof

/-- The `n` low bytes of `x`, least significant first (R53). -/
def leBytes : Nat → Nat → List Byte
  | 0, _ => []
  | n + 1, x => BitVec.ofNat 8 x :: leBytes n (x / 256)

/-- The number whose bytes, least significant first, are the list (R53). -/
def leNat : List Byte → Nat
  | [] => 0
  | b :: bs => b.toNat + 256 * leNat bs

/-- The little-endian value of a list of bytes as `w` bits. -/
def leBits (w : Nat) (bs : List Byte) : BitVec w := BitVec.ofNat w (leNat bs)

/-- The record's fields in the index order of 10_state.md R30. -/
def TrapRecord.fields (r : TrapRecord) : List I64 :=
  r.gpr.toList ++ [r.trapno, r.errcode, r.rip, r.cs, r.rflags, r.rsp, r.ss]

/-- The record's 176-byte image: contiguous little-endian fields (30_encoding.md R76). DESIGN CHOICE, log entry 20. -/
def TrapRecord.image (r : TrapRecord) : List Byte := r.fields.flatMap fun f => leBytes 8 f.toNat

/-- The field at index `i` of a record image: bytes `8·i .. 8·i + 7` (R76). -/
def recordField (img : List Byte) (i : Nat) : I64 := leBits 64 ((img.drop (8 * i)).take 8)

/-- The record of an image (R76). The trap number is the field at bytes 120..127 (R77). -/
def recordOfImage (img : List Byte) : TrapRecord where
  gpr     := Vector.ofFn fun i : Fin 15 => recordField img i
  trapno  := recordField img Machine.trapnoIndex
  errcode := recordField img 16
  rip     := recordField img 17
  cs      := recordField img 18
  rflags  := recordField img 19
  rsp     := recordField img 20
  ss      := recordField img 21

/-- The three commands of R80. -/
inductive Command where
  | encode
  | init
  | dispatch
deriving DecidableEq, Repr

/-- One row of the command map (R81): an opcode matches when its masked bits are the row's. -/
structure CommandRow where
  pattern : Byte
  mask    : Byte
  command : Command
deriving DecidableEq, Repr

/-- R81: the command map. DESIGN CHOICE, log entry 4. -/
def commandTable : List CommandRow :=
  [⟨0x01, 0xFF, .encode⟩, ⟨0x02, 0xFF, .init⟩, ⟨0x03, 0xFF, .dispatch⟩]

/-- R81: "A decoder tells the command by `op` alone". No row matches a reserved opcode (R83). -/
def selectCommand (op : Byte) : Option Command :=
  (commandTable.find? fun row => op &&& row.mask == row.pattern).map (·.command)

/-- The opcode byte of a command (R81). -/
def Command.opcode : Command → Byte
  | .encode => 0x01
  | .init => 0x02
  | .dispatch => 0x03

/-- How many operand bytes a command carries (R81): A and B of ENCODE, none, the record of DISPATCH. -/
def Command.operandBytes : Command → Nat
  | .encode => 9
  | .init => 0
  | .dispatch => Machine.recBytes

/-- The three actions of DISPATCH (R84). -/
inductive Action where
  | timer
  | spuriousCheck
  | fatal
deriving DecidableEq, Repr

/-- One row of the dispatcher's selection table (R84). -/
structure ActionRow where
  pattern : I64
  mask    : I64
  action  : Action
deriving DecidableEq, Repr

/-- R84: the selection table, in ascending priority number: the first matching row wins. -/
def actionTable : List ActionRow :=
  [⟨0x0000000000000020, 0xFFFFFFFFFFFFFFFF, .timer⟩,
   ⟨0x0000000000000027, 0xFFFFFFFFFFFFFFFF, .spuriousCheck⟩,
   ⟨0x0000000000000000, 0x0000000000000000, .fatal⟩]

/-- R84: the action DISPATCH selects. The last row matches every trap number, so a trap number is never illegal (R85). -/
def selectAction (trapno : I64) : Action :=
  match actionTable.find? fun row => trapno &&& row.mask == row.pattern with
  | some row => row.action
  | none => .fatal

/-- The row of the selection table that a trap number selects, as an instruction. -/
def decodeTrapno (trapno : I64) : Instr :=
  match selectAction trapno with
  | .timer => .dispatchTimer
  | .spuriousCheck => .dispatchSpuriousCheck
  | .fatal => .dispatchFatal trapno

/-- Why bytes are no instruction. -/
inductive DecodeError where
  /-- No byte at all. -/
  | empty
  /-- R83: an opcode other than 0x01, 0x02 and 0x03. -/
  | reservedOpcode (op : Byte)
  /-- The image does not have the one length of its format (R81). DESIGN CHOICE, log entry 6. -/
  | wrongLength
deriving DecidableEq, Repr

/-- The instruction of a command's operand bytes, once their number is right. -/
def decodeOperands : Command → List Byte → Instr
  | .encode, bs => .encode (leBits 64 (bs.take 8)) (leBits 8 (bs.drop 8))
  | .init, _ => .init
  | .dispatch, bs => .dispatch (recordOfImage bs)

/-- A command image: the opcode byte, then its operands, least significant byte first (95_test_vectors.md section 3).
DESIGN CHOICE, log entry 4. -/
def decodeCommand : List Byte → Except DecodeError Instr
  | [] => .error .empty
  | op :: operands =>
    match selectCommand op with
    | none => .error (.reservedOpcode op)
    | some c => if operands.length = c.operandBytes then .ok (decodeOperands c operands) else .error .wrongLength

/-- The instruction of an image in either format of the opcode table. -/
def decode : Format → List Byte → Except DecodeError Instr
  | .cmd8, bs => decodeCommand bs
  | .trapno64, bs => if bs.length = 8 then .ok (decodeTrapno (leBits 64 bs)) else .error .wrongLength

/-- The image of an instruction in its own format: a command's bytes, or the trap number that selects the action. -/
def encode : Instr → List Byte
  | .encode address attr => Command.opcode .encode :: (leBytes 8 address.toNat ++ leBytes 1 attr.toNat)
  | .init => [Command.opcode .init]
  | .dispatch record => Command.opcode .dispatch :: record.image
  | .dispatchTimer => leBytes 8 Machine.vecTimer.toNat
  | .dispatchSpuriousCheck => leBytes 8 Machine.vecSpurious.toNat
  | .dispatchFatal trapno => leBytes 8 trapno.toNat

/-- How many bytes an instruction's image has (R81, R76, R84). -/
def Instr.imageBytes : Instr → Nat
  | .encode _ _ => 10
  | .init => 1
  | .dispatch _ => 177
  | .dispatchTimer => 8
  | .dispatchSpuriousCheck => 8
  | .dispatchFatal _ => 8

/-- How many bytes the command with this opcode has; a reserved opcode is issued alone (R86 `.byte`). -/
def commandBytes (op : Byte) : Nat :=
  match selectCommand op with
  | some c => 1 + c.operandBytes
  | none => 1

/-- A command's bytes as the opcode table numbers an instruction's bits: bit 0 is the opcode's lowest bit, and the
operand bits the table does not give are 0. -/
def tableImage (nbits w : Nat) : List Byte :=
  leBytes (commandBytes (BitVec.ofNat 8 w)) (w % 2 ^ nbits)

/-- The record all of whose fields are zero but the trap number. -/
def recordWithTrapno (trapno : I64) : TrapRecord where
  gpr     := Vector.replicate 15 0
  trapno  := trapno
  errcode := 0
  rip     := 0
  cs      := 0
  rflags  := 0
  rsp     := 0
  ss      := 0

/-- The command by which the unit runs the row that a table word stands for. A 64-bit word is a trap number (format
`trapno64`): the unit runs its row as the DISPATCH of a record that holds it. DESIGN CHOICE, log entry 21. -/
def fetchImage (nbits w : Nat) : List Byte :=
  if nbits = 64 then encode (.dispatch (recordWithTrapno (BitVec.ofNat 64 w))) else tableImage nbits w

/-- The instruction the decoder reads from a word of the opcode table: a trap number where the row has 64 bits, a
command otherwise (no command has 64 bits). -/
def decodeTableWord (nbits w : Nat) : Option Instr :=
  if nbits = 64 then (decode .trapno64 (leBytes 8 w)).toOption else (decode .cmd8 (tableImage nbits w)).toOption

end Sys2Proof
end

