-- ==== Sys2Proof/Machine/State.lean ====
section
/-! DEFINITION. The machine's state as plain data: the unit's tuple `(IT, TP, installed, ctl, trace, fault, refused)`
(10_state.md R20), and beside it what the environment agents of 00_scope.md R7 hold. -/

namespace Sys2Proof.Machine

/-- The table memory (20_memory.md R50, R52): bytes by address, rising, none equal to what an unlisted address reads. -/
abbrev Memory := List Host.Cell

/-- What an unlisted address reads as: the table is zero at reset (70_reset_and_hazards.md R210).
DEDUCED, log entry 2. -/
def Memory.unlisted : Byte := 0

/-- The Table Pointer's two fields (10_state.md R24). -/
structure TablePointer where
  limit : U16
  base  : U64
deriving DecidableEq, Repr

/-- The controller state (10_state.md R26). -/
inductive Ctl where
  /-- The unit accepts one command. -/
  | idle
  /-- The "non-returning wait state". -/
  | halted
deriving DecidableEq, Repr

/-- The five kinds of externally visible event (10_state.md R27). -/
inductive Event where
  /-- The install primitive called with the 10-byte Table Pointer image. -/
  | install (img : BitVec 80)
  /-- The acknowledge primitive called. -/
  | ack
  /-- The read-in-service-byte primitive called, and the byte it returned. -/
  | readIsr (b : Byte)
  /-- DISPATCH returned to the trampoline. -/
  | ret
  /-- DISPATCH entered the fail-stop state. -/
  | halt
deriving DecidableEq, Repr

/-- The two kinds of sticky fault (10_state.md R28), both raised by trap delivery only. -/
inductive FaultKind where
  /-- `NOT_INSTALLED` (60_exceptions.md R172). -/
  | notInstalled
  /-- `UNPOPULATED_VECTOR` (60_exceptions.md R178). -/
  | unpopulatedVector
deriving DecidableEq, Repr

/-- The two kinds of sticky refusal mark (10_state.md R29). -/
inductive RefusalKind where
  /-- `RESERVED_OPCODE` (30_encoding.md R83). -/
  | reservedOpcode
  /-- `BAD_CONFIG` (41_installer.md R120). -/
  | badConfig
deriving DecidableEq, Repr

/-- The interrupted context of a delivery (60_exceptions.md R175): `{gpr[0..14], rip, cs, rflags, rsp, ss}`. -/
structure Context where
  gpr    : Vector I64 15
  rip    : I64
  cs     : I64
  rflags : I64
  rsp    : I64
  ss     : I64
deriving DecidableEq, Repr

/-- What trap entry keeps until the return (60_exceptions.md R183, R184): the trap record on the stack, and the
interrupt enable as it was before entry. PRESUMED, log entry 14. -/
structure TrapFrame where
  record        : TrapRecord
  enabledBefore : Bool
deriving DecidableEq, Repr

/-- What the CPU+TRAMPOLINE agent does around a dispatch. PRESUMED, log entry 14. -/
inductive CpuEvent where
  /-- R174: control goes to the handler entry, in the code segment of the descriptor's selector. -/
  | enter (handler : U64) (selector : U16)
  /-- R184: the interrupted context resumes. -/
  | resume (ctx : Context)
deriving DecidableEq, Repr

/-- A move of an environment agent (60_exceptions.md R192; the textual names are 30_encoding.md R86's).
DESIGN CHOICE, log entry 5.
None of them writes the table: DESIGN CHOICE, log entry 17. -/
inductive Input where
  /-- A command presented to the unit: its opcode byte and its operand bytes (R81). -/
  | command (image : List Byte)
  /-- `deliver v`: CPU+TRAMPOLINE delivers vector `v` out of a context (R175). -/
  | deliver (v : Byte) (ctx : Context)
  /-- `isr b`: the PIC fixes the next in-service byte (R86). -/
  | isr (b : Byte)
  /-- BOOT enables the CPU's interrupts (70_reset_and_hazards.md R221, item 4). -/
  | enableInterrupts
deriving DecidableEq, Repr

structure State where
  /-- The open parameters (00_scope.md R9). No step writes them (10_state.md R21). DESIGN CHOICE, log entry 1. -/
  cfg        : Config
  /-- `IT` (R22), as the bytes of the table memory (20_memory.md R52). -/
  mem        : Memory
  /-- `TP` (R24); `none` is the spec's `UNWRITTEN` (70_reset_and_hazards.md R211). -/
  tp         : Option TablePointer
  /-- `installed` (R25). -/
  installed  : Bool
  /-- `ctl` (R26). -/
  ctl        : Ctl
  /-- `trace` (R27), oldest event first. -/
  trace      : List Event
  /-- `fault` (R28). -/
  fault      : Option FaultKind
  /-- `refused` (R29). -/
  refused    : Option RefusalKind
  /-- The model's own: the moves the environment has yet to make, next one first. DESIGN CHOICE, log entry 5. -/
  inputs     : List Input
  /-- The model's own: what ENCODE has put on its result bus (30_encoding.md R81), oldest first.
  DESIGN CHOICE, log entry 9. -/
  results    : List U128
  /-- The byte an `isr b` move fixed for the next read (30_encoding.md R86). DESIGN CHOICE, log entry 7. -/
  isrNext    : Option Byte
  /-- The model's own: how many reads of the in-service byte were made, for the free value.
  DESIGN CHOICE, log entry 7. -/
  isrReads   : Nat
  /-- The model's own: how many records were captured, for the free value. DESIGN CHOICE, log entry 8. -/
  deliveries : Nat
  /-- The trap record on the stack and what else entry saved, while a trap is being handled (60_exceptions.md R183). -/
  frame      : Option TrapFrame
  /-- The CPU's interrupt enable (60_exceptions.md R177, R181, R184). PRESUMED, log entry 14. -/
  intEnabled : Bool
  /-- What CPU+TRAMPOLINE did (60_exceptions.md R174, R184), oldest first. PRESUMED, log entry 14. -/
  cpuTrace   : List CpuEvent
deriving DecidableEq, Repr

/-- Why the machine stops with a fault. -/
inductive Fault where
  /-- Raised by `step` in a state whose sticky fault is set: such a state takes no step (30_encoding.md R82). Safe. -/
  | faulted (kind : FaultKind)
  /-- Raised by `deliver` where the Table Pointer is `UNWRITTEN`: a read of it must fault (70_reset_and_hazards.md
  R211). No run from reset reaches it. Safe. -/
  | tpUnwritten
  /-- Raised by `deliver` for a slot past the Table Pointer's limit (60_exceptions.md R173 says the check always
  passes). No run from reset reaches it. Safe. -/
  | beyondLimit
  /-- Raised by `deliver` for a read outside the table window (20_memory.md R50, R57). No run from reset reaches it.
  Safe. -/
  | outsideTable
deriving DecidableEq, Repr

/-- Why the machine refuses to go on. -/
inductive Refusal where
  /-- Raised by an arm of `exec` whose instruction has no meaning yet; no arm raises it now. Safe. -/
  | notModelled (mnemonic : String)
  /-- Raised by `step` in a state whose sticky refusal mark is set: such a state takes no step (30_encoding.md R82).
  Safe. -/
  | refusedBefore (kind : RefusalKind)
  /-- Raised by `runCommand` for an image that is empty or has not the length of its opcode's format: no command of
  30_encoding.md R81. DESIGN CHOICE, log entry 6. Safe. -/
  | malformedCommand
deriving DecidableEq, Repr

/-- The state after reset of a machine with configuration `c` (70_reset_and_hazards.md R210, R212). The fields that are
the model's own start empty. DESIGN CHOICE, log entry 23. -/
def State.resetWith (c : Config) : State where
  cfg        := c
  mem        := []
  tp         := none
  installed  := false
  ctl        := .idle
  trace      := []
  fault      := none
  refused    := none
  inputs     := []
  results    := []
  isrNext    := none
  isrReads   := 0
  deliveries := 0
  frame      := none
  intEnabled := false
  cpuTrace   := []

/-- The machine right after reset. Its configuration has no value a proof could rest on (DESIGN CHOICE, log entry 1). -/
def State.reset : State := State.resetWith Config.platform

end Sys2Proof.Machine
end

