-- ==== Sys2Proof/Machine/Operands.lean ====
section
/-! DEFINITION. The operand forms: the descriptor and its accessors (40_encoder.md R100, R102), the Table Pointer image
(30_encoding.md R74), the trap record's parts (10_state.md R30) and the addresses of the slots (20_memory.md R57). -/

namespace Sys2Proof.Machine

/-- R100 `encode(address, attribute)`, the gate descriptor of 30_encoding.md R70. -/
def encodeDesc (kernelCs : U16) (address : U64) (attr : Byte) : U128 :=
  0#32 ++ address.extractLsb' 32 32 ++ address.extractLsb' 16 16 ++ attr ++ 0#8 ++ kernelCs
    ++ address.extractLsb' 0 16

/-- R102 `d.offset_low`. -/
def descOffsetLow (d : U128) : U16 := d.extractLsb' 0 16

/-- R102 `d.selector`. -/
def descSelector (d : U128) : U16 := d.extractLsb' 16 16

/-- R102 `d.reserved0`. -/
def descReserved0 (d : U128) : Byte := d.extractLsb' 32 8

/-- R102 `d.attr`. -/
def descAttr (d : U128) : Byte := d.extractLsb' 40 8

/-- R102 `d.offset_mid`. -/
def descOffsetMid (d : U128) : U16 := d.extractLsb' 48 16

/-- R102 `d.offset_high`. -/
def descOffsetHigh (d : U128) : BitVec 32 := d.extractLsb' 64 32

/-- R102 `d.reserved1`. -/
def descReserved1 (d : U128) : BitVec 32 := d.extractLsb' 96 32

/-- R102 `desc_addr(d)`, the handler address (30_encoding.md R73). -/
def descAddr (d : U128) : U64 := descOffsetHigh d ++ descOffsetMid d ++ descOffsetLow d

/-- 30_encoding.md R74 `tp_img(TP)`. -/
def tpImg (tp : TablePointer) : BitVec 80 := tp.base ++ tp.limit

/-- The Table Pointer's only legal value (10_state.md R24, 30_encoding.md R75). -/
def legalPointer (c : Config) : TablePointer := ⟨tpLimit, c.idtBase⟩

/-- The byte address of slot `v` of a table at `base` (20_memory.md R57). -/
def slotAddr (base : U64) (v : Byte) : Nat := base.toNat + descBytes * v.toNat

/-- The record that the trampoline of vector `v` captures (60_exceptions.md R176): the trap number is the vector.
DESIGN CHOICE, log entry 11. -/
def captureRecord (v : Byte) (ctx : Context) (errcode : I64) : TrapRecord where
  gpr     := ctx.gpr
  trapno  := v.setWidth 64
  errcode := errcode
  rip     := ctx.rip
  cs      := ctx.cs
  rflags  := ctx.rflags
  rsp     := ctx.rsp
  ss      := ctx.ss

/-- The context that a record holds, which a return resumes (60_exceptions.md R184). -/
def recordContext (r : TrapRecord) : Context where
  gpr    := r.gpr
  rip    := r.rip
  cs     := r.cs
  rflags := r.rflags
  rsp    := r.rsp
  ss     := r.ss

/-- The record's field for a register's name, by `GPR_ORDER` (00_scope.md R9, 10_state.md R30). -/
def gprNamed (c : Config) (r : TrapRecord) (name : String) : Option I64 :=
  (c.gprOrder.toList.zip r.gpr.toList).lookup name

end Sys2Proof.Machine
end

