-- ==== Sys2Proof/Machine/Ops.lean ====
section
/-! DEFINITION. The operations the meanings share: the table memory (20_memory.md), the notation primitives of
00_scope.md R12, the steps of INIT (41_installer.md), the actions of DISPATCH (42_dispatcher.md), and taking a trap and
returning from it (60_exceptions.md). -/

namespace Sys2Proof.Machine

/-- One byte of the table memory. -/
def Memory.read : Memory → Nat → Byte
  | [], _ => Memory.unlisted
  | (a', b) :: m, a => if a' = a then b else Memory.read m a

/-- Writes one byte and keeps the canonical form: writing what an unlisted address reads as removes the entry. -/
def Memory.write : Memory → Nat → Byte → Memory
  | [], a, b => if b = Memory.unlisted then [] else [(a, b)]
  | (a', b') :: m, a, b =>
    if a < a' then if b = Memory.unlisted then (a', b') :: m else (a, b) :: (a', b') :: m
    else if a = a' then if b = Memory.unlisted then m else (a, b) :: m
    else (a', b') :: Memory.write m a b

/-- The canonical form: addresses strictly rising, no entry equal to what an unlisted address reads as. -/
def Memory.wf : Memory → Bool
  | [] => true
  | (a, b) :: m => b != Memory.unlisted && m.all (fun cell => a < cell.1) && Memory.wf m

/-- `n` bytes from address `a` on, lowest first. -/
def Memory.readBytes (m : Memory) (a n : Nat) : List Byte := (List.range n).map fun k => m.read (a + k)

/-- R12 `MemWrite`: the bytes in order, the first at the lowest address. -/
def Memory.writeBytes : Memory → Nat → List Byte → Memory
  | m, _, [] => m
  | m, a, b :: bs => Memory.writeBytes (m.write a b) (a + 1) bs

/-- 20_memory.md R50: the table window, `IDT_BASE .. IDT_BASE + 4095`. -/
def inWindow (c : Config) (a n : Nat) : Bool := c.idtBase.toNat ≤ a && a + n ≤ c.idtBase.toNat + tableBytes

/-- R12 `MemRead(addr, n)`, as bytes: none for bytes outside the table window, which the unit cannot reach (R50). -/
def State.memRead (s : State) (a n : Nat) : Option (List Byte) :=
  if inWindow s.cfg a n then some (s.mem.readBytes a n) else none

/-- `IT[v]` of a table at `base` (R12): 16 bytes of the table memory (20_memory.md R52). -/
def Memory.slot (m : Memory) (base : U64) (v : Byte) : U128 := leBits 128 (m.readBytes (slotAddr base v) descBytes)

/-- `IT[v] <- d` (R12): one 16-byte write (20_memory.md R55). -/
def Memory.writeSlot (m : Memory) (base : U64) (v : Byte) (d : U128) : Memory :=
  m.writeBytes (slotAddr base v) (leBytes descBytes d.toNat)

/-- 41_installer.md R121: the slots of the supported vectors, in ascending order (R126). DESIGN CHOICE, log entry 24. -/
def Memory.populate (m : Memory) (c : Config) : Memory :=
  (handlers c).foldl (fun m h => m.writeSlot c.idtBase h.1 (encodeDesc c.kernelCs h.2 gateAttr)) m

/-- `IT[v]` (10_state.md R22). -/
def State.slot (s : State) (v : Byte) : U128 := s.mem.slot s.cfg.idtBase v

/-- The queue of the environment's moves becomes `rest`. -/
def State.withInputs (s : State) (rest : List Input) : State := { s with inputs := rest }

/-- R12 `emit E`. -/
def State.emit (s : State) (e : Event) : State := { s with trace := s.trace ++ [e] }

/-- R12 `raise Fault(kind)`: the sticky fault (10_state.md R28). -/
def State.raise (s : State) (k : FaultKind) : State := { s with fault := some k }

/-- R12 `refuse(kind)`: the sticky refusal mark (10_state.md R29). -/
def State.refuse (s : State) (k : RefusalKind) : State := { s with refused := some k }

/-- R12 `enter HALTED` (10_state.md R26). -/
def State.enterHalted (s : State) : State := { s with ctl := .halted }

/-- ENCODE's result bus (30_encoding.md R81). -/
def State.putResult (s : State) (d : U128) : State := { s with results := s.results ++ [d] }

/-- 41_installer.md R121: the table's slots are written. -/
def State.populate (s : State) : State := { s with mem := s.mem.populate s.cfg }

/-- 41_installer.md R123: `TP` is written. -/
def State.setPointer (s : State) (tp : TablePointer) : State := { s with tp := some tp }

/-- 41_installer.md R124: the install primitive is called with the pointer's image. DESIGN CHOICE, log entry 19. -/
def State.install (s : State) (tp : TablePointer) : State :=
  { s with trace := s.trace ++ [.install (tpImg tp)], installed := true }

/-- INIT (41_installer.md R120, R121): refused where the table would wrap, else the slots, then the pointer, then the
install (R126). -/
def State.initialize (s : State) : State :=
  if tableFits s.cfg then
    (s.populate.setPointer (legalPointer s.cfg)).install (legalPointer s.cfg)
  else s.refuse .badConfig

/-- The byte the PIC answers a read with: the one an `isr b` move fixed (30_encoding.md R86), else a draw under no law
(42_dispatcher.md R144). -/
def State.isrByte (s : State) : Byte := s.isrNext.getD (Config.isrDraw s.isrReads)

/-- The read uses the fixed byte up, so that every read is answered afresh (42_dispatcher.md R144). -/
def State.consumeIsr (s : State) : State := { s with isrNext := none, isrReads := s.isrReads + 1 }

/-- TIMER (42_dispatcher.md R142). What the acknowledge does to the controller: DEDUCED, log entry 27. -/
def State.timerAction (s : State) : State := (s.emit .ack).emit .ret

/-- SPURIOUS_CHECK (42_dispatcher.md R143): the read, the acknowledge where the byte's bit 7 is set, the return. -/
def State.spuriousAction (s : State) : State :=
  let read := s.consumeIsr.emit (.readIsr s.isrByte)
  (if isrReal s.isrByte then read.emit .ack else read).emit .ret

/-- FATAL (42_dispatcher.md R145). -/
def State.fatalAction (s : State) : State := (s.emit .halt).enterHalted

/-- DISPATCH (42_dispatcher.md R140): the record's trap number selects the action; nothing else of it is read. -/
def State.dispatchRecord (s : State) (r : TrapRecord) : State :=
  match selectAction r.trapno with
  | .timer => s.timerAction
  | .spuriousCheck => s.spuriousAction
  | .fatal => s.fatalAction

/-- Trap entry (60_exceptions.md R183): the record is saved, interrupts are masked (R177), control goes to the handler
the descriptor names (R174). -/
def State.enterTrap (s : State) (d : U128) (r : TrapRecord) : State :=
  { s with
    frame      := some ⟨r, s.intEnabled⟩
    intEnabled := false
    deliveries := s.deliveries + 1
    cpuTrace   := s.cpuTrace ++ [.enter (descAddr d) (descSelector d)] }

/-- Trap return (60_exceptions.md R184): the context of the record resumes, the record is destroyed, the interrupt
enable is again what it was before entry. Without a frame there is nothing to return to. -/
def State.returnFromTrap (s : State) : State :=
  match s.frame with
  | none => s
  | some f =>
    { s with
      frame      := none
      intEnabled := f.enabledBefore
      cpuTrace   := s.cpuTrace ++ [.resume (recordContext f.record)] }

/-- Whether the last dispatch returned (60_exceptions.md R175: "if RETURN was emitted"). -/
def State.returned (s : State) : Bool := s.trace.getLast? = some .ret

/-- After the dispatch the context resumes if it returned (60_exceptions.md R175, R184). -/
def State.finishTrap (s : State) : State := if s.returned then s.returnFromTrap else s

/-- The trap goes through the populated slot's descriptor `d`: the record's capture, the entry, the dispatch, and the
resumption after a RETURN (60_exceptions.md R175). Whatever the descriptor's attribute: DEDUCED, log entry 18. -/
def State.takeTrap (s : State) (v : Byte) (ctx : Context) (d : U128) : State :=
  let r := captureRecord v ctx (Config.errcodeDraw s.deliveries)
  ((s.enterTrap d r).dispatchRecord r).finishTrap

/-- The slot the CPU reads for vector `v` through the installed pointer (60_exceptions.md R173). An unwritten pointer
faults: DEDUCED, log entry 12. The limit check and the window's edge: PRESUMED, log entry 13. -/
def State.lookup (s : State) (v : Byte) : Except Fault U128 :=
  match s.tp with
  | none => .error .tpUnwritten
  | some tp =>
    if tp.limit.toNat < descBytes * v.toNat + (descBytes - 1) then .error .beyondLimit
    else
      match s.memRead (slotAddr tp.base v) descBytes with
      | none => .error .outsideTable
      | some bytes => .ok (leBits 128 bytes)

/-- DELIVER (60_exceptions.md R175), the environment's step that takes a trap. Not held back by the mask:
DEDUCED, log entry 15.
One atomic step: DESIGN CHOICE, log entry 16. -/
def State.deliver (s : State) (v : Byte) (ctx : Context) : Host.Outcome State Fault Refusal :=
  if s.installed then
    match s.lookup v with
    | .error f => .fault f
    | .ok d => .next (if d = 0 then s.raise .unpopulatedVector else s.takeTrap v ctx d)
  else .next (s.raise .notInstalled)

/-- `isr b` (30_encoding.md R86): the PIC fixes the next in-service byte. -/
def State.fixIsr (s : State) (b : Byte) : State := { s with isrNext := some b }

/-- BOOT enables interrupts (70_reset_and_hazards.md R221, item 4), an action on the CPU and outside the unit. -/
def State.enableInterrupts (s : State) : State := { s with intEnabled := true }

end Sys2Proof.Machine
end

