-- ==== Sys2Proof/Machine/Dispatcher.lean ====
section
/-! DEFINITION. The Trap Dispatcher's command and the three rows of its selection table (42_dispatcher.md). -/

namespace Sys2Proof.Machine

/-- DISPATCH (42_dispatcher.md R140). -/
def execDispatch (record : TrapRecord) (s : State) : Host.Outcome State Fault Refusal :=
  .next (s.dispatchRecord record)

/-- DISPATCH, trap number 32 (42_dispatcher.md R142). -/
def execDispatchTimer (s : State) : Host.Outcome State Fault Refusal :=
  .next s.timerAction

/-- DISPATCH, trap number 39 (42_dispatcher.md R143). -/
def execDispatchSpuriousCheck (s : State) : Host.Outcome State Fault Refusal :=
  .next s.spuriousAction

/-- DISPATCH, any other trap number (42_dispatcher.md R145). The number itself leaves no mark: "no logging" (R149).
DEDUCED, log entry 26. -/
def execDispatchFatal (_trapno : I64) (s : State) : Host.Outcome State Fault Refusal :=
  .next s.fatalAction

end Sys2Proof.Machine
end

