-- ==== Sys2Proof/Machine/Encoder.lean ====
section
/-! DEFINITION. The Descriptor Encoder's command (40_encoder.md). -/

namespace Sys2Proof.Machine

/-- ENCODE (40_encoder.md R100): the descriptor goes to the result bus; no state of the unit changes (R101). -/
def execEncode (address : U64) (attr : Byte) (s : State) : Host.Outcome State Fault Refusal :=
  .next (s.putResult (encodeDesc s.cfg.kernelCs address attr))

end Sys2Proof.Machine
end

