-- ==== Sys2Proof/Machine/Installer.lean ====
section
/-! DEFINITION. The Table Installer's command (41_installer.md). -/

namespace Sys2Proof.Machine

/-- INIT (41_installer.md R120, R121). -/
def execInit (s : State) : Host.Outcome State Fault Refusal :=
  .next s.initialize

end Sys2Proof.Machine
end

