-- ==== Sys2Proof/Machine/Dispatch.lean ====
section
/-! DEFINITION. One arm per row of spec/opcode_table.json. -/

namespace Sys2Proof.Machine

def exec (i : Instr) (s : State) : Host.Outcome State Fault Refusal :=
  match i with
  | .encode address attr => Sys2Proof.Machine.execEncode address attr s
  | .init => Sys2Proof.Machine.execInit s
  | .dispatch record => Sys2Proof.Machine.execDispatch record s
  | .dispatchTimer => Sys2Proof.Machine.execDispatchTimer s
  | .dispatchSpuriousCheck => Sys2Proof.Machine.execDispatchSpuriousCheck s
  | .dispatchFatal trapno => Sys2Proof.Machine.execDispatchFatal trapno s

end Sys2Proof.Machine
end

