-- ==== Sys2Proof/Machine/Sequencer.lean ====
section
/-! DEFINITION. How the machine takes its next move. The unit has no program counter and fetches nothing (10_state.md
R33): it sequences by command (30_encoding.md R82). -/

namespace Sys2Proof.Machine

/-- A presented command: its instruction runs as one atomic step (30_encoding.md R82); a reserved opcode sets the
refusal mark and changes nothing else (R83). -/
def runCommand (image : List Byte) (s : State) : Host.Outcome State Fault Refusal :=
  match decodeCommand image with
  | .ok i => exec i s
  | .error (.reservedOpcode _) => .next (s.refuse .reservedOpcode)
  | .error .empty => .refused .malformedCommand
  | .error .wrongLength => .refused .malformedCommand

/-- A move of the environment (60_exceptions.md R192). -/
def takeInput (i : Input) (s : State) : Host.Outcome State Fault Refusal :=
  match i with
  | .command image => runCommand image s
  | .deliver v ctx => s.deliver v ctx
  | .isr b => .next (s.fixIsr b)
  | .enableInterrupts => .next s.enableInterrupts

/-- 30_encoding.md R82: a faulted or refused state takes no step; HALTED has the one step WAIT, which changes nothing
(42_dispatcher.md R146); IDLE takes the next move, and waits where there is none (70_reset_and_hazards.md R212).
The outcome of a marked state: DESIGN CHOICE, log entry 10. The waiting steps: DEDUCED, log entry 25. -/
def sequenceStep (s : State) : Host.Outcome State Fault Refusal :=
  match s.fault, s.refused, s.ctl, s.inputs with
  | some k, _, _, _ => .fault (.faulted k)
  | none, some k, _, _ => .refused (.refusedBefore k)
  | none, none, .halted, _ => .next s
  | none, none, .idle, [] => .next s
  | none, none, .idle, i :: rest => takeInput i (s.withInputs rest)

end Sys2Proof.Machine
end

