-- ==== Sys2Proof/Machine/Step.lean ====
section
/-! DEFINITION. One step of the machine, and where the next instruction stands. -/

namespace Sys2Proof.Machine

/-- One atomic step (30_encoding.md R82), without duration. DEDUCED, log entry 28. -/
def step (s : State) : Host.Outcome State Fault Refusal := sequenceStep s

/-- `s` with the instruction of an opcode-table word presented as the next command. The unit runs no stored program:
BOOT presents commands from outside (DESIGN CHOICE, log entry 22). -/
def State.withFetchWord (s : State) (nbits w : Nat) : State :=
  { s with inputs := .command (fetchImage nbits w) :: s.inputs }

end Sys2Proof.Machine
end

