-- ==== Sys2Proof/Machine/Program.lean ====
section
/-! DEFINITION. The command sequences of 30_encoding.md R86, line by line (their text is notation only,
92_eei_decisions.md D27). -/

namespace Sys2Proof.Machine

/-- R86: one line of a command sequence. A record field that a `dispatch` line omits is "don't care": the line here
carries the whole record, with any value there. DESIGN CHOICE, log entry 29. -/
inductive Line where
  | encode (address : U64) (attr : Byte)
  | init
  | dispatch (record : TrapRecord)
  | byte (op : Byte)
  | comment (text : String)
  | deliver (v : Byte) (ctx : Context)
  | isr (b : Byte)
deriving DecidableEq, Repr

/-- The move a line stands for; a comment stands for none. -/
def Line.input : Line → Option Input
  | .encode address attr => some (.command (Sys2Proof.encode (.encode address attr)))
  | .init => some (.command (Sys2Proof.encode .init))
  | .dispatch record => some (.command (Sys2Proof.encode (.dispatch record)))
  | .byte op => some (.command [op])
  | .comment _ => none
  | .deliver v ctx => some (.deliver v ctx)
  | .isr b => some (.isr b)

/-- `s` with a command sequence still to come. -/
def State.withProgram (s : State) (lines : List Line) : State :=
  { s with inputs := s.inputs ++ lines.filterMap Line.input }

end Sys2Proof.Machine
end

