-- ==== Sys2Proof/Safety.lean ====
section
/-! DEFINITION. The terms claims use: accepting states, the good end of a run (70_reset_and_hazards.md R227), and what
holds of every state a run reaches. -/

namespace Sys2Proof

open Sys2Proof.Machine

/-- The states that accept a command or a delivery (30_encoding.md R82, 60_exceptions.md R175). -/
def Machine.State.accepting (s : State) : Prop := s.ctl = .idle ∧ s.fault = none ∧ s.refused = none

/-- R227: a run ends well at a state that is IDLE with no fault and no refusal, and no delivery is in progress.
DEDUCED, log entry 30. -/
def Machine.State.goodEnd (s : State) : Prop := s.accepting ∧ s.frame = none

/-- What slot `v` holds after INIT (41_installer.md R125). -/
def Machine.installedSlot (c : Config) (v : Byte) : U128 :=
  match trampolineAddr? c v with
  | some a => encodeDesc c.kernelCs a gateAttr
  | none => 0

/-- The memory in its canonical form, with no byte outside the table window (20_memory.md R50). -/
def Machine.State.memInv (s : State) : Prop :=
  s.mem.wf = true ∧ ∀ cell ∈ s.mem, inWindow s.cfg cell.1 1 = true

/-- The table is as INIT leaves it, or INIT has not run (41_installer.md R125, 20_memory.md R59, 10_state.md R24). -/
def Machine.State.tableInv (s : State) : Prop :=
  if s.installed then
    tableFits s.cfg = true ∧ s.tp = some (legalPointer s.cfg) ∧ ∀ v, s.slot v = installedSlot s.cfg v
  else s.tp = none ∧ s.mem = []

/-- HALTED is entered by a HALT event, the last one, and is neither faulted nor refused (42_dispatcher.md R145, R148);
a trap is being handled only there, because every other dispatch has returned (60_exceptions.md R185). -/
def Machine.State.ctlInv (s : State) : Prop :=
  match s.ctl with
  | .idle => .halt ∉ s.trace ∧ s.frame = none
  | .halted => s.trace.getLast? = some .halt ∧ s.fault = none ∧ s.refused = none

/-- Every INSTALL carries the image of the one legal pointer (10_state.md R24, 41_installer.md R127), and `installed`
says that there was one (R25). -/
def Machine.State.traceInv (s : State) : Prop :=
  (s.installed = true ↔ .install (tpImg (legalPointer s.cfg)) ∈ s.trace) ∧
    ∀ img, .install img ∈ s.trace → img = tpImg (legalPointer s.cfg)

/-- What every step keeps. -/
def Machine.State.Inv (s : State) : Prop := s.memInv ∧ s.tableInv ∧ s.ctlInv ∧ s.traceInv

end Sys2Proof
end

