-- ==== Sys2Proof/Certificates/Slice0/Obligations.lean ====
section
/-! DEFINITION. The statements for the provers. A record update `{ s with … }` as the next state is also the frame:
every field that it does not name, every byte of memory among them, is as it was. -/

open Sys2Proof Sys2Proof.Machine

/-! ### ENCODE (40_encoder.md) -/

/-- R103, the field law. -/
def Obligations.EncodeObeysTheFieldLaw : Prop :=
  ∀ (cs : U16) (a : U64) (b : Byte),
    descAddr (encodeDesc cs a b) = a ∧ descSelector (encodeDesc cs a b) = cs ∧ descAttr (encodeDesc cs a b) = b ∧
      descReserved0 (encodeDesc cs a b) = 0 ∧ descReserved1 (encodeDesc cs a b) = 0

/-- R70 and R100: which bits of the result hold which bits of the operands. That the result stands at the end of
`results` is the model's choice (log entry 9); the bit positions follow the little-endian decision (log entry 3). -/
def Obligations.EncodePlacesEveryField : Prop :=
  ∀ (a : U64) (b : Byte) (s : State),
    ∃ d, exec (.encode a b) s = .next { s with results := s.results ++ [d] } ∧
      d.extractLsb' 0 16 = a.extractLsb' 0 16 ∧ d.extractLsb' 16 16 = s.cfg.kernelCs ∧
      d.extractLsb' 32 8 = 0#8 ∧ d.extractLsb' 40 8 = b ∧ d.extractLsb' 48 16 = a.extractLsb' 16 16 ∧
      d.extractLsb' 64 32 = a.extractLsb' 32 32 ∧ d.extractLsb' 96 32 = 0#32

/-- R101: the result depends on the operands and `KERNEL_CS` alone, and nothing else changes. `results` is the model's
choice (log entry 9). -/
def Obligations.EncodeIsPure : Prop :=
  ∀ (a : U64) (b : Byte) (s s' : State), s.cfg.kernelCs = s'.cfg.kernelCs →
    ∃ d, exec (.encode a b) s = .next { s with results := s.results ++ [d] } ∧
      exec (.encode a b) s' = .next { s' with results := s'.results ++ [d] }

/-- R104: decoding the address fields undoes the encoding, so that it is injective in each operand. -/
def Obligations.EncodeRoundTripsAndIsInjective : Prop :=
  ∀ (cs : U16) (a a' : U64) (b b' : Byte),
    descAddr (encodeDesc cs a b) = a ∧ (encodeDesc cs a b = encodeDesc cs a' b → a = a') ∧
      (encodeDesc cs a b = encodeDesc cs a b' → b = b')

/-- R105: a descriptor with a non-zero attribute is not the zero descriptor. -/
def Obligations.EncodeOfNonZeroAttrIsNonZero : Prop :=
  ∀ (cs : U16) (a : U64) (b : Byte), (b ≠ 0 → encodeDesc cs a b ≠ 0) ∧ encodeDesc cs a 0x8E ≠ 0

/-! ### INIT (41_installer.md) -/

/-- R125: the table, the pointer and `installed` after an INIT that is not refused. The premise on the other slots is the
reset value they keep (R122). -/
def Obligations.InitLeavesThePostState : Prop :=
  ∀ s : State, s.mem.wf = true → s.cfg.idtBase.toNat ≤ 2 ^ 64 - 4096 → (∀ v, v ∉ supported → s.slot v = 0) →
    ∃ t, exec .init s = .next t ∧
      (∀ v ∈ supported, ∃ a, trampolineAddr? s.cfg v = some a ∧ t.slot v = encodeDesc s.cfg.kernelCs a 0x8E ∧
        t.slot v ≠ 0 ∧ descAttr (t.slot v) = 0x8E ∧ descSelector (t.slot v) = s.cfg.kernelCs ∧
        descAddr (t.slot v) = a) ∧
      (∀ v, v ∉ supported → t.slot v = 0) ∧
      t.tp = some ⟨4095, s.cfg.idtBase⟩ ∧ t.installed = true

/-- R120 (the spec's own choice, its D5): a table that would wrap is refused, and nothing else is written. -/
def Obligations.InitRefusesAWrappingTable : Prop :=
  ∀ s : State, s.cfg.idtBase.toNat > 2 ^ 64 - 4096 →
    exec .init s = .next { s with refused := some .badConfig }

/-- R121: all that an INIT that is not refused writes; every byte outside the 20 supported slots reads as before. -/
def Obligations.InitWritesOnlySlotsPointerAndTrace : Prop :=
  ∀ s : State, s.cfg.idtBase.toNat ≤ 2 ^ 64 - 4096 →
    ∃ m, exec .init s = .next { s with
        mem := m
        tp := some ⟨4095, s.cfg.idtBase⟩
        trace := s.trace ++ [.install (tpImg ⟨4095, s.cfg.idtBase⟩)]
        installed := true } ∧
      ∀ a : Nat, (∀ v ∈ supported, a < slotAddr s.cfg.idtBase v ∨ slotAddr s.cfg.idtBase v + 16 ≤ a) →
        m.read a = s.mem.read a

/-- R122: INIT does not write the slots of vectors 9, 15, 20..31, 33..38 and 40..255; they keep the value they had, no
other step writes them, and it is zero from reset. -/
def Obligations.InitKeepsUnpopulatedSlots : Prop :=
  ∀ (s t : State) (c : Config) (v : Byte),
    (v.toNat = 9 ∨ v.toNat = 15 ∨ (20 ≤ v.toNat ∧ v.toNat ≤ 31) ∨ (33 ≤ v.toNat ∧ v.toNat ≤ 38) ∨ 40 ≤ v.toNat) →
    (exec .init s = .next t → t.slot v = s.slot v) ∧ (step s = .next t → t.slot v = s.slot v) ∧
      (State.resetWith c).slot v = 0

/-- R127 (the spec's own choice, its D8): a second INIT changes nothing but that a second INSTALL, with the same image, is appended. -/
def Obligations.InitAgainOnlyInstallsAgain : Prop :=
  ∀ s t : State, s.mem.wf = true → s.cfg.idtBase.toNat ≤ 2 ^ 64 - 4096 → exec .init s = .next t →
    ∃ img, t.trace = s.trace ++ [.install img] ∧
      exec .init t = .next { t with trace := s.trace ++ [.install img, .install img] }

/-- R75: the pointer INIT writes and the bytes of the image that INSTALL carries (little-endian, log entry 3). -/
def Obligations.InitInstallsTheImageBytes : Prop :=
  ∀ s : State, s.cfg.idtBase.toNat ≤ 2 ^ 64 - 4096 →
    ∃ t img, exec .init s = .next t ∧ t.tp = some ⟨4095, s.cfg.idtBase⟩ ∧ t.trace = s.trace ++ [.install img] ∧
      leBytes 10 img.toNat = 0xFF :: 0x0F :: leBytes 8 s.cfg.idtBase.toNat

/-- R74: where the image holds the two fields (little-endian, log entry 3). -/
def Obligations.PointerImageHoldsLimitAndBase : Prop :=
  ∀ tp : TablePointer, (tpImg tp).extractLsb' 0 16 = tp.limit ∧ (tpImg tp).extractLsb' 16 64 = tp.base

/-! ### DISPATCH (42_dispatcher.md) -/

/-- R142: trap number 32. -/
def Obligations.DispatchOfTimerAcknowledges : Prop :=
  ∀ (r : TrapRecord) (s : State), r.trapno = 32 →
    exec (.dispatch r) s = .next { s with trace := s.trace ++ [.ack, .ret] }

/-- R143: trap number 39. Of the unit's state only the trace changes. -/
def Obligations.DispatchOfSpuriousReadsAndAcknowledgesBitSeven : Prop :=
  ∀ (r : TrapRecord) (s : State), r.trapno = 39 →
    ∃ t b, exec (.dispatch r) s = .next t ∧
      t.trace = s.trace ++ .readIsr b :: (if b.getLsbD 7 then [.ack, .ret] else [.ret]) ∧
      t.ctl = s.ctl ∧ t.mem = s.mem ∧ t.tp = s.tp ∧ t.installed = s.installed ∧ t.fault = s.fault ∧
      t.refused = s.refused ∧ t.cfg = s.cfg

/-- R144, R86: the byte read is the one an `isr` move fixed, else the free value of that read; either way the next read
is answered afresh. The fields are the model's choice (log entry 7). -/
def Obligations.InServiceByteIsTheFixedOneOrADraw : Prop :=
  ∀ (r : TrapRecord) (s : State), r.trapno = 39 →
    ∃ t b evs, exec (.dispatch r) s = .next t ∧ t.trace = s.trace ++ .readIsr b :: evs ∧
      (∀ f, s.isrNext = some f → b = f) ∧ (s.isrNext = none → b = Config.isrDraw s.isrReads) ∧
      t.isrNext = none ∧ t.isrReads = s.isrReads + 1

/-- R145: every other trap number. -/
def Obligations.DispatchOfOthersHalts : Prop :=
  ∀ (r : TrapRecord) (s : State), r.trapno ≠ 32 → r.trapno ≠ 39 →
    exec (.dispatch r) s = .next { s with trace := s.trace ++ [.halt], ctl := .halted }

/-- R31, R140: no record field but the trap number makes any difference. -/
def Obligations.DispatchReadsOnlyTheTrapNumber : Prop :=
  ∀ (r r' : TrapRecord) (s : State), r.trapno = r'.trapno → exec (.dispatch r) s = exec (.dispatch r') s

/-- R147: how often a DISPATCH acknowledges. -/
def Obligations.DispatchAcknowledgesAsCounted : Prop :=
  ∀ (r : TrapRecord) (s : State),
    ∃ t evs, exec (.dispatch r) s = .next t ∧ t.trace = s.trace ++ evs ∧
      (r.trapno = 32 → evs.count .ack = 1) ∧
      (r.trapno = 39 → ∃ b, .readIsr b ∈ evs ∧ evs.count .ack = if b.getLsbD 7 then 1 else 0) ∧
      (r.trapno ≠ 32 → r.trapno ≠ 39 → evs.count .ack = 0)

/-- R148: a DISPATCH returns for 32 and 39 only; else it halts, and the unit emits nothing more, however long it runs. -/
def Obligations.DispatchReturnsOrHaltsForever : Prop :=
  ∀ (r : TrapRecord) (s : State), s.fault = none → s.refused = none →
    ∃ t evs, exec (.dispatch r) s = .next t ∧ t.trace = s.trace ++ evs ∧
      (.ret ∈ evs ↔ r.trapno = 32 ∨ r.trapno = 39) ∧
      (¬ (r.trapno = 32 ∨ r.trapno = 39) → .halt ∈ evs ∧ ∀ n, Host.Core.run Sys2Proof.core n t = .next t)

/-- R84: DISPATCH does what the row of its trap number does. The rows as instructions are the model's choice (log entry
21). -/
def Obligations.DispatchRunsTheSelectedRow : Prop :=
  ∀ (r : TrapRecord) (s : State), exec (.dispatch r) s = exec (decodeTrapno r.trapno) s

/-- R84: which row a trap number selects, on all 64 bits (the spec's own choice, its D25; log entry 21). -/
def Obligations.TrapNumberSelectsItsRow : Prop :=
  ∀ n : I64, decodeTrapno n =
    if n = 32 then .dispatchTimer else if n = 39 then .dispatchSpuriousCheck else .dispatchFatal n

/-- R142, R143, R145: what the three rows of the selection table do, as instructions of their own (log entry 21). -/
def Obligations.SelectionRowsAct : Prop :=
  ∀ (n : I64) (s : State),
    exec .dispatchTimer s = .next { s with trace := s.trace ++ [.ack, .ret] } ∧
    (∃ b k m, exec .dispatchSpuriousCheck s = .next { s with
      trace := s.trace ++ .readIsr b :: (if b.getLsbD 7 then [.ack, .ret] else [.ret])
      isrNext := k
      isrReads := m }) ∧
    exec (.dispatchFatal n) s = .next { s with trace := s.trace ++ [.halt], ctl := .halted }

/-- The frame of ENCODE and of all that DISPATCH does (R101, R141): table, pointer, `installed`, configuration, marks and
the environment's side are as before, and every byte of memory reads as before. -/
def Obligations.AllButInitLeaveTheTable : Prop :=
  ∀ (i : Instr) (s t : State), i ≠ .init → exec i s = .next t →
    (∀ a, t.mem.read a = s.mem.read a) ∧ (∀ v, t.slot v = s.slot v) ∧ t.tp = s.tp ∧ t.installed = s.installed ∧
      t.cfg = s.cfg ∧ t.fault = s.fault ∧ t.refused = s.refused ∧ t.inputs = s.inputs ∧ t.frame = s.frame ∧
      t.intEnabled = s.intEnabled ∧ t.cpuTrace = s.cpuTrace ∧ t.deliveries = s.deliveries ∧
      (t.results = s.results ∨ (t.trace = s.trace ∧ t.ctl = s.ctl))

/-- R77: the trap number of a DISPATCH image, byte by byte (log entries 3, 4 and 20). -/
def Obligations.TrapNumberIsBytes120To127 : Prop :=
  ∀ img : List Byte, img.length = 176 →
    ∃ r, decodeCommand (0x03 :: img) = .ok (.dispatch r) ∧
      r.trapno.toNat = (img.getD 120 0).toNat + 2 ^ 8 * (img.getD 121 0).toNat + 2 ^ 16 * (img.getD 122 0).toNat +
        2 ^ 24 * (img.getD 123 0).toNat + 2 ^ 32 * (img.getD 124 0).toNat + 2 ^ 40 * (img.getD 125 0).toNat +
        2 ^ 48 * (img.getD 126 0).toNat + 2 ^ 56 * (img.getD 127 0).toNat

/-- R30, R76: field `i` of a record image is bytes `8·i .. 8·i + 7`, and the fields stand in the order of R30 (log
entries 3, 4 and 20). -/
def Obligations.RecordFieldsAreInOrder : Prop :=
  ∀ img : List Byte, img.length = 176 →
    ∃ r, decodeCommand (0x03 :: img) = .ok (.dispatch r) ∧ r.image = img ∧
      (∀ i : Fin 15, r.gpr[i] = leBits 64 ((img.drop (8 * i)).take 8)) ∧
      r.trapno = leBits 64 ((img.drop 120).take 8) ∧ r.errcode = leBits 64 ((img.drop 128).take 8) ∧
      r.rip = leBits 64 ((img.drop 136).take 8) ∧ r.cs = leBits 64 ((img.drop 144).take 8) ∧
      r.rflags = leBits 64 ((img.drop 152).take 8) ∧ r.rsp = leBits 64 ((img.drop 160).take 8) ∧
      r.ss = leBits 64 ((img.drop 168).take 8)

/-! ### Sequencing (30_encoding.md R82, R83; 42_dispatcher.md R146) -/

/-- In an accepting state the next command is decoded and run, its image taken from the queue (log entry 5). -/
def Obligations.StepRunsTheDecodedCommand : Prop :=
  ∀ (s : State) (image : List Byte) (rest : List Input) (i : Instr), s.accepting →
    s.inputs = .command image :: rest → decodeCommand image = .ok i →
    i.wf = true ∧ step s = exec i { s with inputs := rest }

/-- R83 (the spec's own choice, its D3): a reserved opcode sets the refusal mark and changes nothing else. That the
command is taken from a queue, whatever operand bytes follow it, is the model's choice (log entries 5 and 6). -/
def Obligations.ReservedOpcodeSetsTheMark : Prop :=
  ∀ (s : State) (op : Byte) (operands : List Byte) (rest : List Input), s.accepting →
    s.inputs = .command (op :: operands) :: rest → op ≠ 0x01 → op ≠ 0x02 → op ≠ 0x03 →
    step s = .next { s with inputs := rest, refused := some .reservedOpcode }

/-- The model's choice (log entry 6): an image that is empty, or not of its opcode's length, is no command. -/
def Obligations.MalformedCommandStops : Prop :=
  ∀ (s : State) (image : List Byte) (rest : List Input), s.accepting → s.inputs = .command image :: rest →
    (image = [] ∨ (image.head? = some 0x01 ∧ image.length ≠ 10) ∨ (image.head? = some 0x02 ∧ image.length ≠ 1) ∨
      (image.head? = some 0x03 ∧ image.length ≠ 177)) →
    step s = .refused .malformedCommand

/-- R146: HALTED has the one step WAIT, whatever the environment offers and however long, and is no good end. -/
def Obligations.HaltedOnlyWaits : Prop :=
  ∀ (s : State) (n : Nat), s.ctl = .halted → s.fault = none → s.refused = none →
    Host.Core.run Sys2Proof.core n s = .next s ∧ ¬ s.goodEnd

/-- R82: a faulted or refused state takes no step. That the machine then stops with the kind is the model's choice (log
entry 10). -/
def Obligations.MarkedStatesTakeNoStep : Prop :=
  ∀ (s : State) (f : FaultKind) (k : RefusalKind),
    (s.fault = some f → step s = .fault (.faulted f)) ∧
    (s.fault = none → s.refused = some k → step s = .refused (.refusedBefore k))

/-- R212: an IDLE machine with nothing to take waits (log entry 22). -/
def Obligations.IdleWaitsForACommand : Prop :=
  ∀ s : State, s.accepting → s.inputs = [] → ∀ n, Host.Core.run Sys2Proof.core n s = .next s

/-- The two moves of the environment that reach no command (R86 `isr`, R221 item 4; log entries 7 and 14). -/
def Obligations.EnvironmentMovesSetTheirField : Prop :=
  ∀ (s : State) (b : Byte) (rest : List Input), s.accepting →
    (s.inputs = .isr b :: rest → step s = .next { s with inputs := rest, isrNext := some b }) ∧
    (s.inputs = .enableInterrupts :: rest → step s = .next { s with inputs := rest, intEnabled := true })

/-! ### Trap delivery (60_exceptions.md) -/

/-- R172 (the spec's own choice, its D17): a delivery before INSTALL. The queue is the model's choice (log entry 5). -/
def Obligations.DeliveryBeforeInstallFaults : Prop :=
  ∀ (s : State) (v : Byte) (ctx : Context) (rest : List Input), s.accepting → s.installed = false →
    s.inputs = .deliver v ctx :: rest →
    step s = .next { s with inputs := rest, fault := some .notInstalled }

/-- R178 (the spec's own choice, its D18): a delivery to a slot that is all zero. The queue is the model's choice (log
entry 5). -/
def Obligations.DeliveryToAbsentSlotFaults : Prop :=
  ∀ (s : State) (v : Byte) (ctx : Context) (rest : List Input), s.accepting → s.installed = true →
    s.tp = some ⟨4095, s.cfg.idtBase⟩ → s.slot v = 0 → s.inputs = .deliver v ctx :: rest →
    step s = .next { s with inputs := rest, fault := some .unpopulatedVector }

/-- R170, R178: after INIT the vectors outside the supported set fault (log entry 5; the spec's D18). -/
def Obligations.DeliveryOfUnsupportedVectorFaults : Prop :=
  ∀ (s : State) (v : Byte) (ctx : Context) (rest : List Input), s.Inv → s.accepting → s.installed = true →
    v ∉ supported → s.inputs = .deliver v ctx :: rest →
    step s = .next { s with inputs := rest, fault := some .unpopulatedVector }

/-- R174, R175, R184: a delivered timer tick goes through its trampoline, is acknowledged, and the interrupted context
resumes; the interrupt enable is as it was. The log of the CPU's side is the model's own (log entry 14). -/
def Obligations.DeliveredTimerResumesTheContext : Prop :=
  ∀ (s : State) (ctx : Context) (rest : List Input), s.Inv → s.accepting → s.installed = true →
    s.inputs = .deliver 32 ctx :: rest →
    ∃ a, trampolineAddr? s.cfg 32 = some a ∧ step s = .next { s with
      inputs := rest
      trace := s.trace ++ [.ack, .ret]
      deliveries := s.deliveries + 1
      cpuTrace := s.cpuTrace ++ [.enter a s.cfg.kernelCs, .resume ctx] }

/-- R174, R175, R184: the same of vector 39, acknowledged where bit 7 of the byte read is set (log entries 7 and 14). -/
def Obligations.DeliveredSpuriousResumesTheContext : Prop :=
  ∀ (s : State) (ctx : Context) (rest : List Input), s.Inv → s.accepting → s.installed = true →
    s.inputs = .deliver 39 ctx :: rest →
    ∃ a b n k, trampolineAddr? s.cfg 39 = some a ∧ step s = .next { s with
      inputs := rest
      trace := s.trace ++ .readIsr b :: (if b.getLsbD 7 then [.ack, .ret] else [.ret])
      isrNext := n
      isrReads := k
      deliveries := s.deliveries + 1
      cpuTrace := s.cpuTrace ++ [.enter a s.cfg.kernelCs, .resume ctx] }

/-- R175, R176, R183: every other supported vector halts, with the captured record standing (its error code is a free
value, log entry 8) and interrupts masked; the frame and the CPU's log are the model's own (log entry 14). -/
def Obligations.DeliveredFatalHaltsWithItsRecord : Prop :=
  ∀ (s : State) (v : Byte) (ctx : Context) (rest : List Input), s.Inv → s.accepting → s.installed = true →
    v ∈ supported → v ≠ 32 → v ≠ 39 → s.inputs = .deliver v ctx :: rest →
    ∃ a e, trampolineAddr? s.cfg v = some a ∧ step s = .next { s with
      inputs := rest
      trace := s.trace ++ [.halt]
      ctl := .halted
      deliveries := s.deliveries + 1
      frame := some ⟨⟨ctx.gpr, v.setWidth 64, e, ctx.rip, ctx.cs, ctx.rflags, ctx.rsp, ctx.ss⟩, s.intEnabled⟩
      intEnabled := false
      cpuTrace := s.cpuTrace ++ [.enter a s.cfg.kernelCs] }

/-! ### The whole machine -/

/-- Every step keeps the invariant of `Sys2Proof/Safety.lean`: the canonical memory inside the window, the table as INIT
leaves it or untouched, the one legal pointer, HALT last and for good, every INSTALL of the one image. -/
def Obligations.StepKeepsTheTableAndControlSound : Prop :=
  ∀ s t : State, s.Inv → step s = .next t → t.Inv

/-- The invariant holds after reset, whatever the configuration. -/
def Obligations.ResetIsSound : Prop :=
  State.reset.Inv ∧ ∀ c, (State.resetWith c).Inv

/-- R210: the state after reset, whatever the configuration. Apart from the zero table the values are the spec's own
choice (its D15); the configuration that `State.reset` carries is the model's (log entry 1). -/
def Obligations.ResetIsAsTheSpecSays : Prop :=
  ∀ c, (∀ v, (State.resetWith c).slot v = 0) ∧ (State.resetWith c).tp = none ∧
    (State.resetWith c).installed = false ∧ (State.resetWith c).ctl = .idle ∧ (State.resetWith c).trace = [] ∧
    (State.resetWith c).fault = none ∧ (State.resetWith c).refused = none ∧
    State.reset = State.resetWith Config.platform

/-- R21: no step writes the configuration. That the state carries it is the model's choice (log entry 1). -/
def Obligations.StepNeverWritesTheConfiguration : Prop :=
  ∀ s t : State, step s = .next t → t.cfg = s.cfg

/-- R27: no step removes or reorders an event. -/
def Obligations.StepOnlyAppendsEvents : Prop :=
  ∀ s t : State, step s = .next t → s.trace <+: t.trace

/-- R25: `installed` becomes true when INSTALL is emitted, and no step makes it false again. -/
def Obligations.InstalledStaysAndNeedsAnInstall : Prop :=
  ∀ s t : State, step s = .next t →
    (s.installed = true → t.installed = true) ∧
    (s.installed = false → t.installed = true → ∃ img, t.trace = s.trace ++ [.install img])

/-- R23, R24, R60: only an INIT command changes the table memory, the pointer or `installed`. -/
def Obligations.OnlyInitCommandsWriteTheTable : Prop :=
  ∀ s t : State, step s = .next t →
    (t.mem ≠ s.mem ∨ t.tp ≠ s.tp ∨ t.installed ≠ s.installed) → ∃ rest, s.inputs = .command [0x02] :: rest

/-- R227: between steps no delivery is in progress, so a good end is an IDLE state with no fault and no refusal. That a
delivery in progress shows as a standing frame is the model's choice (log entry 14). -/
def Obligations.GoodEndsAreTheAcceptingStates : Prop :=
  ∀ s : State, s.Inv → (s.goodEnd ↔ s.ctl = .idle ∧ s.fault = none ∧ s.refused = none)

/-- R28: only trap delivery raises a fault, and no step clears one. -/
def Obligations.OnlyDeliveryRaisesFaults : Prop :=
  ∀ s t : State, step s = .next t → t.fault ≠ s.fault →
    s.fault = none ∧ ∃ v ctx rest, s.inputs = .deliver v ctx :: rest

/-- R29: only a command sets the refusal mark, and no step clears one. -/
def Obligations.OnlyCommandsAreRefused : Prop :=
  ∀ s t : State, step s = .next t → t.refused ≠ s.refused →
    s.refused = none ∧ ∃ image rest, s.inputs = .command image :: rest

/-- R173, R211: in a sound state no delivery reads the pointer unwritten, or past its limit, or outside the table. -/
def Obligations.SoundStatesNeverMisreadTheTable : Prop :=
  ∀ s : State, s.Inv → step s ≠ .fault .tpUnwritten ∧ step s ≠ .fault .beyondLimit ∧ step s ≠ .fault .outsideTable

/-- R16, R125: after INIT the populated slots are exactly those of the 20 supported vectors. -/
def Obligations.PopulatedSlotsAreTheSupportedOnes : Prop :=
  ∀ s : State, s.Inv → s.installed = true → ∀ v, s.slot v ≠ 0 ↔
    v.toNat ∈ [0, 1, 2, 3, 4, 5, 6, 7, 8, 10, 11, 12, 13, 14, 16, 17, 18, 19, 32, 39]

/-! ### Memory and encodings -/

/-- R52: the table memory and the table are one storage (little-endian, log entry 3). -/
def Obligations.SlotIsItsSixteenBytes : Prop :=
  ∀ (s : State) (v : Byte),
    (∀ k < 16, (s.slot v).extractLsb' (8 * k) 8 = s.mem.read (s.cfg.idtBase.toNat + 16 * v.toNat + k)) ∧
    ∃ bytes, s.memRead (s.cfg.idtBase.toNat + 16 * v.toNat) 16 = some bytes ∧ leBits 128 bytes = s.slot v

/-- R53: a 4-byte read at slot offset 0 gives the selector above the low offset (little-endian, log entry 3). -/
def Obligations.FourByteReadIsSelectorAndOffset : Prop :=
  ∀ (s : State) (v : Byte),
    ∃ bytes, s.memRead (s.cfg.idtBase.toNat + 16 * v.toNat) 4 = some bytes ∧
      leBits 32 bytes = descSelector (s.slot v) ++ descOffsetLow (s.slot v)

/-- Decoding the image of a well-formed instruction, in its row's format, gives it back. The images follow log entries 3,
4, 20 and 21. -/
def Obligations.DecodeOfEncodeIsTheInstruction : Prop :=
  ∀ i : Instr, i.wf = true → decode i.format (encode i) = .ok i

/-- Every image that decodes is the image of the instruction it decodes to, which is well-formed and of that format (log
entries 3, 4, 6, 20 and 21). -/
def Obligations.EncodeOfDecodeIsTheImage : Prop :=
  ∀ (f : Format) (image : List Byte) (i : Instr), decode f image = .ok i →
    i.format = f ∧ i.wf = true ∧ encode i = image

/-- A few images written out from R81 and 95_test_vectors.md (log entries 3 and 4). -/
def Obligations.WrittenOutImagesDecode : Prop :=
  decodeCommand [0x01, 0xF0, 0xDE, 0xBC, 0x9A, 0x78, 0x56, 0x34, 0x12, 0x8E] =
    .ok (.encode 0x123456789ABCDEF0 0x8E) ∧
  decodeCommand [0x02] = .ok .init ∧
  decode .trapno64 [0x20, 0, 0, 0, 0, 0, 0, 0] = .ok .dispatchTimer ∧
  decode .trapno64 [0x27, 0, 0, 0, 0, 0, 0, 0] = .ok .dispatchSpuriousCheck ∧
  decode .trapno64 [0x20, 0, 0, 0, 1, 0, 0, 0] = .ok (.dispatchFatal 0x0000000100000020) ∧
  decodeCommand [0x04] = .error (.reservedOpcode 0x04)

/-- R86, R81: the command lines of a command sequence issue images that decode to their commands (log entry 29). -/
def Obligations.ProgramLinesIssueTheirCommands : Prop :=
  ∀ (a : U64) (b : Byte) (r : TrapRecord),
    (∃ image, (Line.encode a b).input = some (.command image) ∧ decodeCommand image = .ok (.encode a b)) ∧
    (∃ image, Line.init.input = some (.command image) ∧ decodeCommand image = .ok .init) ∧
    (∃ image, (Line.dispatch r).input = some (.command image) ∧ decodeCommand image = .ok (.dispatch r))

/-- A word of the opcode table, presented to an accepting machine, is what the next step runs; a trap number is run as
the DISPATCH that selects its row (the model's choice, log entries 21 and 22). -/
def Obligations.FetchWordRunsTheTableRow : Prop :=
  ∀ (s : State) (nbits w : Nat) (i : Instr), s.accepting → decodeTableWord nbits w = some i →
    step (s.withFetchWord nbits w) = exec i s
end

