-- ==== Sys2Proof/Laws/State.lean ====
section
/-! SUPPORT. Each field after each update of the state, so that no proof unfolds a record update. -/

namespace Sys2Proof.Machine

section WithInputs
variable (s : State) (rest : List Input)

@[simp] theorem State.withInputs_cfg : (s.withInputs rest).cfg = s.cfg := rfl
@[simp] theorem State.withInputs_mem : (s.withInputs rest).mem = s.mem := rfl
@[simp] theorem State.withInputs_tp : (s.withInputs rest).tp = s.tp := rfl
@[simp] theorem State.withInputs_installed : (s.withInputs rest).installed = s.installed := rfl
@[simp] theorem State.withInputs_ctl : (s.withInputs rest).ctl = s.ctl := rfl
@[simp] theorem State.withInputs_trace : (s.withInputs rest).trace = s.trace := rfl
@[simp] theorem State.withInputs_fault : (s.withInputs rest).fault = s.fault := rfl
@[simp] theorem State.withInputs_refused : (s.withInputs rest).refused = s.refused := rfl
@[simp] theorem State.withInputs_inputs : (s.withInputs rest).inputs = rest := rfl
@[simp] theorem State.withInputs_results : (s.withInputs rest).results = s.results := rfl
@[simp] theorem State.withInputs_isrNext : (s.withInputs rest).isrNext = s.isrNext := rfl
@[simp] theorem State.withInputs_isrReads : (s.withInputs rest).isrReads = s.isrReads := rfl
@[simp] theorem State.withInputs_deliveries : (s.withInputs rest).deliveries = s.deliveries := rfl
@[simp] theorem State.withInputs_frame : (s.withInputs rest).frame = s.frame := rfl
@[simp] theorem State.withInputs_intEnabled : (s.withInputs rest).intEnabled = s.intEnabled := rfl
@[simp] theorem State.withInputs_cpuTrace : (s.withInputs rest).cpuTrace = s.cpuTrace := rfl

end WithInputs

section Emit
variable (s : State) (e : Event)

@[simp] theorem State.emit_cfg : (s.emit e).cfg = s.cfg := rfl
@[simp] theorem State.emit_mem : (s.emit e).mem = s.mem := rfl
@[simp] theorem State.emit_tp : (s.emit e).tp = s.tp := rfl
@[simp] theorem State.emit_installed : (s.emit e).installed = s.installed := rfl
@[simp] theorem State.emit_ctl : (s.emit e).ctl = s.ctl := rfl
@[simp] theorem State.emit_trace : (s.emit e).trace = s.trace ++ [e] := rfl
@[simp] theorem State.emit_fault : (s.emit e).fault = s.fault := rfl
@[simp] theorem State.emit_refused : (s.emit e).refused = s.refused := rfl
@[simp] theorem State.emit_inputs : (s.emit e).inputs = s.inputs := rfl
@[simp] theorem State.emit_results : (s.emit e).results = s.results := rfl
@[simp] theorem State.emit_isrNext : (s.emit e).isrNext = s.isrNext := rfl
@[simp] theorem State.emit_isrReads : (s.emit e).isrReads = s.isrReads := rfl
@[simp] theorem State.emit_deliveries : (s.emit e).deliveries = s.deliveries := rfl
@[simp] theorem State.emit_frame : (s.emit e).frame = s.frame := rfl
@[simp] theorem State.emit_intEnabled : (s.emit e).intEnabled = s.intEnabled := rfl
@[simp] theorem State.emit_cpuTrace : (s.emit e).cpuTrace = s.cpuTrace := rfl

end Emit

section Raise
variable (s : State) (k : FaultKind)

@[simp] theorem State.raise_cfg : (s.raise k).cfg = s.cfg := rfl
@[simp] theorem State.raise_mem : (s.raise k).mem = s.mem := rfl
@[simp] theorem State.raise_tp : (s.raise k).tp = s.tp := rfl
@[simp] theorem State.raise_installed : (s.raise k).installed = s.installed := rfl
@[simp] theorem State.raise_ctl : (s.raise k).ctl = s.ctl := rfl
@[simp] theorem State.raise_trace : (s.raise k).trace = s.trace := rfl
@[simp] theorem State.raise_fault : (s.raise k).fault = some k := rfl
@[simp] theorem State.raise_refused : (s.raise k).refused = s.refused := rfl
@[simp] theorem State.raise_inputs : (s.raise k).inputs = s.inputs := rfl
@[simp] theorem State.raise_results : (s.raise k).results = s.results := rfl
@[simp] theorem State.raise_isrNext : (s.raise k).isrNext = s.isrNext := rfl
@[simp] theorem State.raise_isrReads : (s.raise k).isrReads = s.isrReads := rfl
@[simp] theorem State.raise_deliveries : (s.raise k).deliveries = s.deliveries := rfl
@[simp] theorem State.raise_frame : (s.raise k).frame = s.frame := rfl
@[simp] theorem State.raise_intEnabled : (s.raise k).intEnabled = s.intEnabled := rfl
@[simp] theorem State.raise_cpuTrace : (s.raise k).cpuTrace = s.cpuTrace := rfl

end Raise

section Refuse
variable (s : State) (k : RefusalKind)

@[simp] theorem State.refuse_cfg : (s.refuse k).cfg = s.cfg := rfl
@[simp] theorem State.refuse_mem : (s.refuse k).mem = s.mem := rfl
@[simp] theorem State.refuse_tp : (s.refuse k).tp = s.tp := rfl
@[simp] theorem State.refuse_installed : (s.refuse k).installed = s.installed := rfl
@[simp] theorem State.refuse_ctl : (s.refuse k).ctl = s.ctl := rfl
@[simp] theorem State.refuse_trace : (s.refuse k).trace = s.trace := rfl
@[simp] theorem State.refuse_fault : (s.refuse k).fault = s.fault := rfl
@[simp] theorem State.refuse_refused : (s.refuse k).refused = some k := rfl
@[simp] theorem State.refuse_inputs : (s.refuse k).inputs = s.inputs := rfl
@[simp] theorem State.refuse_results : (s.refuse k).results = s.results := rfl
@[simp] theorem State.refuse_isrNext : (s.refuse k).isrNext = s.isrNext := rfl
@[simp] theorem State.refuse_isrReads : (s.refuse k).isrReads = s.isrReads := rfl
@[simp] theorem State.refuse_deliveries : (s.refuse k).deliveries = s.deliveries := rfl
@[simp] theorem State.refuse_frame : (s.refuse k).frame = s.frame := rfl
@[simp] theorem State.refuse_intEnabled : (s.refuse k).intEnabled = s.intEnabled := rfl
@[simp] theorem State.refuse_cpuTrace : (s.refuse k).cpuTrace = s.cpuTrace := rfl

end Refuse

section EnterHalted
variable (s : State)

@[simp] theorem State.enterHalted_cfg : s.enterHalted.cfg = s.cfg := rfl
@[simp] theorem State.enterHalted_mem : s.enterHalted.mem = s.mem := rfl
@[simp] theorem State.enterHalted_tp : s.enterHalted.tp = s.tp := rfl
@[simp] theorem State.enterHalted_installed : s.enterHalted.installed = s.installed := rfl
@[simp] theorem State.enterHalted_ctl : s.enterHalted.ctl = .halted := rfl
@[simp] theorem State.enterHalted_trace : s.enterHalted.trace = s.trace := rfl
@[simp] theorem State.enterHalted_fault : s.enterHalted.fault = s.fault := rfl
@[simp] theorem State.enterHalted_refused : s.enterHalted.refused = s.refused := rfl
@[simp] theorem State.enterHalted_inputs : s.enterHalted.inputs = s.inputs := rfl
@[simp] theorem State.enterHalted_results : s.enterHalted.results = s.results := rfl
@[simp] theorem State.enterHalted_isrNext : s.enterHalted.isrNext = s.isrNext := rfl
@[simp] theorem State.enterHalted_isrReads : s.enterHalted.isrReads = s.isrReads := rfl
@[simp] theorem State.enterHalted_deliveries : s.enterHalted.deliveries = s.deliveries := rfl
@[simp] theorem State.enterHalted_frame : s.enterHalted.frame = s.frame := rfl
@[simp] theorem State.enterHalted_intEnabled : s.enterHalted.intEnabled = s.intEnabled := rfl
@[simp] theorem State.enterHalted_cpuTrace : s.enterHalted.cpuTrace = s.cpuTrace := rfl

end EnterHalted

section PutResult
variable (s : State) (d : U128)

@[simp] theorem State.putResult_cfg : (s.putResult d).cfg = s.cfg := rfl
@[simp] theorem State.putResult_mem : (s.putResult d).mem = s.mem := rfl
@[simp] theorem State.putResult_tp : (s.putResult d).tp = s.tp := rfl
@[simp] theorem State.putResult_installed : (s.putResult d).installed = s.installed := rfl
@[simp] theorem State.putResult_ctl : (s.putResult d).ctl = s.ctl := rfl
@[simp] theorem State.putResult_trace : (s.putResult d).trace = s.trace := rfl
@[simp] theorem State.putResult_fault : (s.putResult d).fault = s.fault := rfl
@[simp] theorem State.putResult_refused : (s.putResult d).refused = s.refused := rfl
@[simp] theorem State.putResult_inputs : (s.putResult d).inputs = s.inputs := rfl
@[simp] theorem State.putResult_results : (s.putResult d).results = s.results ++ [d] := rfl
@[simp] theorem State.putResult_isrNext : (s.putResult d).isrNext = s.isrNext := rfl
@[simp] theorem State.putResult_isrReads : (s.putResult d).isrReads = s.isrReads := rfl
@[simp] theorem State.putResult_deliveries : (s.putResult d).deliveries = s.deliveries := rfl
@[simp] theorem State.putResult_frame : (s.putResult d).frame = s.frame := rfl
@[simp] theorem State.putResult_intEnabled : (s.putResult d).intEnabled = s.intEnabled := rfl
@[simp] theorem State.putResult_cpuTrace : (s.putResult d).cpuTrace = s.cpuTrace := rfl

end PutResult

section Populate
variable (s : State)

@[simp] theorem State.populate_cfg : s.populate.cfg = s.cfg := by simp only [State.populate]
@[simp] theorem State.populate_mem : s.populate.mem = s.mem.populate s.cfg := by simp only [State.populate]
@[simp] theorem State.populate_tp : s.populate.tp = s.tp := by simp only [State.populate]
@[simp] theorem State.populate_installed : s.populate.installed = s.installed := by simp only [State.populate]
@[simp] theorem State.populate_ctl : s.populate.ctl = s.ctl := by simp only [State.populate]
@[simp] theorem State.populate_trace : s.populate.trace = s.trace := by simp only [State.populate]
@[simp] theorem State.populate_fault : s.populate.fault = s.fault := by simp only [State.populate]
@[simp] theorem State.populate_refused : s.populate.refused = s.refused := by simp only [State.populate]
@[simp] theorem State.populate_inputs : s.populate.inputs = s.inputs := by simp only [State.populate]
@[simp] theorem State.populate_results : s.populate.results = s.results := by simp only [State.populate]
@[simp] theorem State.populate_isrNext : s.populate.isrNext = s.isrNext := by simp only [State.populate]
@[simp] theorem State.populate_isrReads : s.populate.isrReads = s.isrReads := by simp only [State.populate]
@[simp] theorem State.populate_deliveries : s.populate.deliveries = s.deliveries := by simp only [State.populate]
@[simp] theorem State.populate_frame : s.populate.frame = s.frame := by simp only [State.populate]
@[simp] theorem State.populate_intEnabled : s.populate.intEnabled = s.intEnabled := by simp only [State.populate]
@[simp] theorem State.populate_cpuTrace : s.populate.cpuTrace = s.cpuTrace := by simp only [State.populate]

end Populate

section SetPointer
variable (s : State) (tp : TablePointer)

@[simp] theorem State.setPointer_cfg : (s.setPointer tp).cfg = s.cfg := rfl
@[simp] theorem State.setPointer_mem : (s.setPointer tp).mem = s.mem := rfl
@[simp] theorem State.setPointer_tp : (s.setPointer tp).tp = some tp := rfl
@[simp] theorem State.setPointer_installed : (s.setPointer tp).installed = s.installed := rfl
@[simp] theorem State.setPointer_ctl : (s.setPointer tp).ctl = s.ctl := rfl
@[simp] theorem State.setPointer_trace : (s.setPointer tp).trace = s.trace := rfl
@[simp] theorem State.setPointer_fault : (s.setPointer tp).fault = s.fault := rfl
@[simp] theorem State.setPointer_refused : (s.setPointer tp).refused = s.refused := rfl
@[simp] theorem State.setPointer_inputs : (s.setPointer tp).inputs = s.inputs := rfl
@[simp] theorem State.setPointer_results : (s.setPointer tp).results = s.results := rfl
@[simp] theorem State.setPointer_isrNext : (s.setPointer tp).isrNext = s.isrNext := rfl
@[simp] theorem State.setPointer_isrReads : (s.setPointer tp).isrReads = s.isrReads := rfl
@[simp] theorem State.setPointer_deliveries : (s.setPointer tp).deliveries = s.deliveries := rfl
@[simp] theorem State.setPointer_frame : (s.setPointer tp).frame = s.frame := rfl
@[simp] theorem State.setPointer_intEnabled : (s.setPointer tp).intEnabled = s.intEnabled := rfl
@[simp] theorem State.setPointer_cpuTrace : (s.setPointer tp).cpuTrace = s.cpuTrace := rfl

end SetPointer

section Install
variable (s : State) (tp : TablePointer)

@[simp] theorem State.install_cfg : (s.install tp).cfg = s.cfg := rfl
@[simp] theorem State.install_mem : (s.install tp).mem = s.mem := rfl
@[simp] theorem State.install_tp : (s.install tp).tp = s.tp := rfl
@[simp] theorem State.install_installed : (s.install tp).installed = true := rfl
@[simp] theorem State.install_ctl : (s.install tp).ctl = s.ctl := rfl
@[simp] theorem State.install_trace : (s.install tp).trace = s.trace ++ [.install (tpImg tp)] := rfl
@[simp] theorem State.install_fault : (s.install tp).fault = s.fault := rfl
@[simp] theorem State.install_refused : (s.install tp).refused = s.refused := rfl
@[simp] theorem State.install_inputs : (s.install tp).inputs = s.inputs := rfl
@[simp] theorem State.install_results : (s.install tp).results = s.results := rfl
@[simp] theorem State.install_isrNext : (s.install tp).isrNext = s.isrNext := rfl
@[simp] theorem State.install_isrReads : (s.install tp).isrReads = s.isrReads := rfl
@[simp] theorem State.install_deliveries : (s.install tp).deliveries = s.deliveries := rfl
@[simp] theorem State.install_frame : (s.install tp).frame = s.frame := rfl
@[simp] theorem State.install_intEnabled : (s.install tp).intEnabled = s.intEnabled := rfl
@[simp] theorem State.install_cpuTrace : (s.install tp).cpuTrace = s.cpuTrace := rfl

end Install

section ConsumeIsr
variable (s : State)

@[simp] theorem State.consumeIsr_cfg : s.consumeIsr.cfg = s.cfg := rfl
@[simp] theorem State.consumeIsr_mem : s.consumeIsr.mem = s.mem := rfl
@[simp] theorem State.consumeIsr_tp : s.consumeIsr.tp = s.tp := rfl
@[simp] theorem State.consumeIsr_installed : s.consumeIsr.installed = s.installed := rfl
@[simp] theorem State.consumeIsr_ctl : s.consumeIsr.ctl = s.ctl := rfl
@[simp] theorem State.consumeIsr_trace : s.consumeIsr.trace = s.trace := rfl
@[simp] theorem State.consumeIsr_fault : s.consumeIsr.fault = s.fault := rfl
@[simp] theorem State.consumeIsr_refused : s.consumeIsr.refused = s.refused := rfl
@[simp] theorem State.consumeIsr_inputs : s.consumeIsr.inputs = s.inputs := rfl
@[simp] theorem State.consumeIsr_results : s.consumeIsr.results = s.results := rfl
@[simp] theorem State.consumeIsr_isrNext : s.consumeIsr.isrNext = none := rfl
@[simp] theorem State.consumeIsr_isrReads : s.consumeIsr.isrReads = s.isrReads + 1 := rfl
@[simp] theorem State.consumeIsr_deliveries : s.consumeIsr.deliveries = s.deliveries := rfl
@[simp] theorem State.consumeIsr_frame : s.consumeIsr.frame = s.frame := rfl
@[simp] theorem State.consumeIsr_intEnabled : s.consumeIsr.intEnabled = s.intEnabled := rfl
@[simp] theorem State.consumeIsr_cpuTrace : s.consumeIsr.cpuTrace = s.cpuTrace := rfl

end ConsumeIsr

section FixIsr
variable (s : State) (b : Byte)

@[simp] theorem State.fixIsr_cfg : (s.fixIsr b).cfg = s.cfg := rfl
@[simp] theorem State.fixIsr_mem : (s.fixIsr b).mem = s.mem := rfl
@[simp] theorem State.fixIsr_tp : (s.fixIsr b).tp = s.tp := rfl
@[simp] theorem State.fixIsr_installed : (s.fixIsr b).installed = s.installed := rfl
@[simp] theorem State.fixIsr_ctl : (s.fixIsr b).ctl = s.ctl := rfl
@[simp] theorem State.fixIsr_trace : (s.fixIsr b).trace = s.trace := rfl
@[simp] theorem State.fixIsr_fault : (s.fixIsr b).fault = s.fault := rfl
@[simp] theorem State.fixIsr_refused : (s.fixIsr b).refused = s.refused := rfl
@[simp] theorem State.fixIsr_inputs : (s.fixIsr b).inputs = s.inputs := rfl
@[simp] theorem State.fixIsr_results : (s.fixIsr b).results = s.results := rfl
@[simp] theorem State.fixIsr_isrNext : (s.fixIsr b).isrNext = some b := rfl
@[simp] theorem State.fixIsr_isrReads : (s.fixIsr b).isrReads = s.isrReads := rfl
@[simp] theorem State.fixIsr_deliveries : (s.fixIsr b).deliveries = s.deliveries := rfl
@[simp] theorem State.fixIsr_frame : (s.fixIsr b).frame = s.frame := rfl
@[simp] theorem State.fixIsr_intEnabled : (s.fixIsr b).intEnabled = s.intEnabled := rfl
@[simp] theorem State.fixIsr_cpuTrace : (s.fixIsr b).cpuTrace = s.cpuTrace := rfl

end FixIsr

section EnableInterrupts
variable (s : State)

@[simp] theorem State.enableInterrupts_cfg : s.enableInterrupts.cfg = s.cfg := rfl
@[simp] theorem State.enableInterrupts_mem : s.enableInterrupts.mem = s.mem := rfl
@[simp] theorem State.enableInterrupts_tp : s.enableInterrupts.tp = s.tp := rfl
@[simp] theorem State.enableInterrupts_installed : s.enableInterrupts.installed = s.installed := rfl
@[simp] theorem State.enableInterrupts_ctl : s.enableInterrupts.ctl = s.ctl := rfl
@[simp] theorem State.enableInterrupts_trace : s.enableInterrupts.trace = s.trace := rfl
@[simp] theorem State.enableInterrupts_fault : s.enableInterrupts.fault = s.fault := rfl
@[simp] theorem State.enableInterrupts_refused : s.enableInterrupts.refused = s.refused := rfl
@[simp] theorem State.enableInterrupts_inputs : s.enableInterrupts.inputs = s.inputs := rfl
@[simp] theorem State.enableInterrupts_results : s.enableInterrupts.results = s.results := rfl
@[simp] theorem State.enableInterrupts_isrNext : s.enableInterrupts.isrNext = s.isrNext := rfl
@[simp] theorem State.enableInterrupts_isrReads : s.enableInterrupts.isrReads = s.isrReads := rfl
@[simp] theorem State.enableInterrupts_deliveries : s.enableInterrupts.deliveries = s.deliveries := rfl
@[simp] theorem State.enableInterrupts_frame : s.enableInterrupts.frame = s.frame := rfl
@[simp] theorem State.enableInterrupts_intEnabled : s.enableInterrupts.intEnabled = true := rfl
@[simp] theorem State.enableInterrupts_cpuTrace : s.enableInterrupts.cpuTrace = s.cpuTrace := rfl

end EnableInterrupts

section EnterTrap
variable (s : State) (d : U128) (r : TrapRecord)

@[simp] theorem State.enterTrap_cfg : (s.enterTrap d r).cfg = s.cfg := rfl
@[simp] theorem State.enterTrap_mem : (s.enterTrap d r).mem = s.mem := rfl
@[simp] theorem State.enterTrap_tp : (s.enterTrap d r).tp = s.tp := rfl
@[simp] theorem State.enterTrap_installed : (s.enterTrap d r).installed = s.installed := rfl
@[simp] theorem State.enterTrap_ctl : (s.enterTrap d r).ctl = s.ctl := rfl
@[simp] theorem State.enterTrap_trace : (s.enterTrap d r).trace = s.trace := rfl
@[simp] theorem State.enterTrap_fault : (s.enterTrap d r).fault = s.fault := rfl
@[simp] theorem State.enterTrap_refused : (s.enterTrap d r).refused = s.refused := rfl
@[simp] theorem State.enterTrap_inputs : (s.enterTrap d r).inputs = s.inputs := rfl
@[simp] theorem State.enterTrap_results : (s.enterTrap d r).results = s.results := rfl
@[simp] theorem State.enterTrap_isrNext : (s.enterTrap d r).isrNext = s.isrNext := rfl
@[simp] theorem State.enterTrap_isrReads : (s.enterTrap d r).isrReads = s.isrReads := rfl
@[simp] theorem State.enterTrap_deliveries : (s.enterTrap d r).deliveries = s.deliveries + 1 := rfl
@[simp] theorem State.enterTrap_frame : (s.enterTrap d r).frame = some ⟨r, s.intEnabled⟩ := rfl
@[simp] theorem State.enterTrap_intEnabled : (s.enterTrap d r).intEnabled = false := rfl
@[simp] theorem State.enterTrap_cpuTrace :
    (s.enterTrap d r).cpuTrace = s.cpuTrace ++ [.enter (descAddr d) (descSelector d)] :=
  rfl

end EnterTrap

end Sys2Proof.Machine
end

