-- ==== Sys2Proof/Laws/Memory.lean ====
section
/-! SUPPORT. Byte order and the table memory: what a read gives after a write, and that every write keeps the canonical
form. -/

namespace Sys2Proof

@[simp] theorem leBytes_length (n x : Nat) : (leBytes n x).length = n := by
  induction n generalizing x with
  | zero => rfl
  | succ n ih => simp [leBytes, ih]

theorem leNat_leBytes (n x : Nat) : leNat (leBytes n x) = x % 256 ^ n := by
  induction n generalizing x with
  | zero => simp [leBytes, leNat, Nat.mod_one]
  | succ n ih =>
    have h : x % 256 ^ (n + 1) = x % 256 + 256 * (x / 256 % 256 ^ n) := by
      rw [Nat.pow_succ', Nat.mod_mul]
    simp [leBytes, leNat, ih, h]

theorem leNat_lt (bs : List Byte) : leNat bs < 256 ^ bs.length := by
  induction bs with
  | nil => simp [leNat]
  | cons b bs ih =>
    have hb : b.toNat < 256 := b.isLt
    simp only [leNat, List.length_cons, Nat.pow_succ]
    omega

theorem leBytes_leNat (bs : List Byte) : leBytes bs.length (leNat bs) = bs := by
  induction bs with
  | nil => rfl
  | cons b bs ih =>
    have hb : b.toNat < 256 := b.isLt
    have h1 : (b.toNat + 256 * leNat bs) / 256 = leNat bs := by omega
    have h2 : BitVec.ofNat 8 (b.toNat + 256 * leNat bs) = b := by
      apply BitVec.eq_of_toNat_eq
      simp only [BitVec.toNat_ofNat]
      omega
    simp [leBytes, leNat, h1, h2, ih]

/-- The bytes of a value of `8·n` bits give it back. -/
theorem leBits_leBytes {w n : Nat} (h : w = 8 * n) (x : BitVec w) : leBits w (leBytes n x.toNat) = x := by
  subst h
  apply BitVec.eq_of_toNat_eq
  have hx : x.toNat < 256 ^ n := by
    have := x.isLt
    rwa [Nat.pow_mul] at this
  simp [leBits, leNat_leBytes, Nat.mod_eq_of_lt hx]

/-- A value read from as many bytes as it has gives the bytes back. -/
theorem leBytes_leBits {w : Nat} (bs : List Byte) (h : w = 8 * bs.length) :
    leBytes bs.length (leBits w bs).toNat = bs := by
  have hlt : leNat bs < 2 ^ w := by
    have := leNat_lt bs
    rwa [h, Nat.pow_mul]
  rw [leBits, BitVec.toNat_ofNat, Nat.mod_eq_of_lt hlt, leBytes_leNat]

namespace Machine

theorem Memory.wf_cons {a : Nat} {b : Byte} {m : Memory} :
    Memory.wf ((a, b) :: m) = true ↔ b ≠ Memory.unlisted ∧ (∀ cell ∈ m, a < cell.1) ∧ m.wf = true := by
  simp [Memory.wf, and_assoc]

/-- Reading below every listed address gives what an unlisted address reads as. -/
theorem Memory.read_of_lt {m : Memory} {a : Nat} (h : ∀ cell ∈ m, a < cell.1) : m.read a = Memory.unlisted := by
  induction m with
  | nil => rfl
  | cons c m ih =>
    have hc : c.1 ≠ a := by
      have := h c (by simp)
      omega
    simp only [Memory.read, if_neg hc]
    exact ih fun cell hm => h cell (by simp [hm])

/-- A read after a write to the same address gives the byte written. -/
theorem Memory.read_write_self {m : Memory} (hm : m.wf = true) (a : Nat) (b : Byte) : (m.write a b).read a = b := by
  induction m with
  | nil =>
    by_cases hb : b = Memory.unlisted <;> simp [Memory.write, Memory.read, hb]
  | cons c m ih =>
    obtain ⟨a', b'⟩ := c
    obtain ⟨-, hlt, hwf⟩ := Memory.wf_cons.1 hm
    simp only [Memory.write]
    split_ifs with h1 h2 h3 h4
    · have hne : a' ≠ a := by omega
      simp only [Memory.read, if_neg hne, h2]
      exact Memory.read_of_lt fun cell h => by
        have := hlt cell h
        omega
    · simp [Memory.read]
    · subst h3
      rw [h4]
      exact Memory.read_of_lt hlt
    · simp [Memory.read]
    · have hne : a' ≠ a := by omega
      simp only [Memory.read, if_neg hne]
      exact ih hwf

/-- A write leaves every other address alone. -/
theorem Memory.read_write_other (m : Memory) {a a' : Nat} (b : Byte) (h : a' ≠ a) :
    (m.write a b).read a' = m.read a' := by
  induction m with
  | nil =>
    by_cases hb : b = Memory.unlisted <;> simp [Memory.write, Memory.read, hb, h.symm]
  | cons c m ih =>
    obtain ⟨k, x⟩ := c
    simp only [Memory.write]
    split_ifs with h1 h2 h3 h4
    · rfl
    · simp [Memory.read, h.symm]
    · subst h3
      simp [Memory.read, h.symm]
    · subst h3
      simp [Memory.read, h.symm]
    · simp only [Memory.read, ih]

/-- A written memory lists nothing new but the address written. -/
theorem Memory.mem_write {m : Memory} {a : Nat} {b : Byte} {cell : Host.Cell} (h : cell ∈ m.write a b) :
    cell ∈ m ∨ cell.1 = a := by
  induction m with
  | nil =>
    simp only [Memory.write] at h
    split_ifs at h <;> simp_all
  | cons c m ih =>
    obtain ⟨a', b'⟩ := c
    simp only [Memory.write] at h
    split_ifs at h <;> simp only [List.mem_cons] at h ⊢ <;> grind

/-- Every write keeps the canonical form. -/
theorem Memory.write_wf {m : Memory} (hm : m.wf = true) (a : Nat) (b : Byte) : (m.write a b).wf = true := by
  induction m with
  | nil =>
    by_cases hb : b = Memory.unlisted <;> simp [Memory.write, Memory.wf, hb]
  | cons c m ih =>
    obtain ⟨a', b'⟩ := c
    obtain ⟨hb', hlt, hwf⟩ := Memory.wf_cons.1 hm
    simp only [Memory.write]
    split_ifs with h1 h2 h3 h4
    · exact hm
    · refine Memory.wf_cons.2 ⟨h2, ?_, hm⟩
      intro cell hc
      rcases List.mem_cons.1 hc with rfl | hc
      · exact h1
      · exact h1.trans (hlt cell hc)
    · exact hwf
    · subst h3
      exact Memory.wf_cons.2 ⟨h4, hlt, hwf⟩
    · refine Memory.wf_cons.2 ⟨hb', ?_, ih hwf⟩
      intro cell hc
      rcases Memory.mem_write hc with hc | rfl
      · exact hlt cell hc
      · omega

theorem Memory.writeBytes_wf {m : Memory} (hm : m.wf = true) (a : Nat) (bs : List Byte) :
    (m.writeBytes a bs).wf = true := by
  induction bs generalizing m a with
  | nil => exact hm
  | cons b bs ih => exact ih (Memory.write_wf hm a b) (a + 1)

theorem Memory.mem_writeBytes {m : Memory} {a : Nat} {bs : List Byte} {cell : Host.Cell}
    (h : cell ∈ m.writeBytes a bs) : cell ∈ m ∨ (a ≤ cell.1 ∧ cell.1 < a + bs.length) := by
  induction bs generalizing m a with
  | nil => exact .inl h
  | cons b bs ih =>
    simp only [List.length_cons]
    rcases ih h with h | h
    · rcases Memory.mem_write h with h | h
      · exact .inl h
      · right; omega
    · right; omega

/-- A run of bytes leaves every address outside it alone. -/
theorem Memory.read_writeBytes_other (m : Memory) {a a' : Nat} (bs : List Byte)
    (h : a' < a ∨ a + bs.length ≤ a') : (m.writeBytes a bs).read a' = m.read a' := by
  induction bs generalizing m a with
  | nil => rfl
  | cons b bs ih =>
    simp only [List.length_cons] at h
    rw [Memory.writeBytes, ih (m.write a b) (by omega), Memory.read_write_other m b (by omega)]

/-- Byte `k` of the run written reads back. -/
theorem Memory.read_writeBytes_self {m : Memory} (hm : m.wf = true) (a : Nat) (bs : List Byte) (k : Nat)
    (hk : k < bs.length) : (m.writeBytes a bs).read (a + k) = bs[k] := by
  induction bs generalizing m a k with
  | nil => simp at hk
  | cons b bs ih =>
    cases k with
    | zero =>
      rw [Memory.writeBytes, Memory.read_writeBytes_other _ _ (by omega)]
      simpa using Memory.read_write_self hm a b
    | succ k =>
      have := ih (Memory.write_wf hm a b) (a + 1) k (by simpa using hk)
      simpa [Memory.writeBytes, Nat.add_assoc, Nat.add_comm 1 k] using this

theorem Memory.readBytes_writeBytes_self {m : Memory} (hm : m.wf = true) (a : Nat) (bs : List Byte) :
    (m.writeBytes a bs).readBytes a bs.length = bs := by
  apply List.ext_getElem
  · simp [Memory.readBytes]
  · intro k h1 h2
    simpa [Memory.readBytes] using Memory.read_writeBytes_self hm a bs k h2

theorem Memory.readBytes_writeBytes_other (m : Memory) {a a' n : Nat} (bs : List Byte)
    (h : a' + n ≤ a ∨ a + bs.length ≤ a') : (m.writeBytes a bs).readBytes a' n = m.readBytes a' n := by
  apply List.map_congr_left
  intro k hk
  have hk := List.mem_range.1 hk
  exact Memory.read_writeBytes_other m bs (by omega)

/-- Equal reads make equal memories: the canonical form is one for each content. -/
theorem Memory.ext_of_wf {m m' : Memory} (hm : m.wf = true) (hm' : m'.wf = true)
    (h : ∀ a, m.read a = m'.read a) : m = m' := by
  induction m generalizing m' with
  | nil =>
    cases m' with
    | nil => rfl
    | cons c m' =>
      obtain ⟨hb, -, -⟩ := Memory.wf_cons.1 hm'
      exact absurd (by simpa [Memory.read] using h c.1) hb.symm
  | cons c m ih =>
    obtain ⟨a, b⟩ := c
    obtain ⟨hb, hlt, hwf⟩ := Memory.wf_cons.1 hm
    cases m' with
    | nil => exact absurd (by simpa [Memory.read] using h a) hb
    | cons c' m' =>
      obtain ⟨a', b'⟩ := c'
      obtain ⟨hb', hlt', hwf'⟩ := Memory.wf_cons.1 hm'
      rcases Nat.lt_trichotomy a a' with hlt1 | rfl | hlt1
      · have h0 : Memory.read ((a', b') :: m') a = Memory.unlisted := Memory.read_of_lt fun cell hc => by
          rcases List.mem_cons.1 hc with rfl | hc
          · exact hlt1
          · exact hlt1.trans (hlt' cell hc)
        exact absurd ((by simp [Memory.read] : b = Memory.read ((a, b) :: m) a).trans ((h a).trans h0)) hb
      · have hbb : b = b' := by simpa [Memory.read] using h a
        subst hbb
        have := ih hwf hwf' fun k => by
          by_cases hk : k = a
          · subst hk
            rw [Memory.read_of_lt hlt, Memory.read_of_lt hlt']
          · simpa [Memory.read, Ne.symm hk] using h k
        rw [this]
      · have h0 : Memory.read ((a, b) :: m) a' = Memory.unlisted := Memory.read_of_lt fun cell hc => by
          rcases List.mem_cons.1 hc with rfl | hc
          · exact hlt1
          · exact hlt1.trans (hlt cell hc)
        exact absurd ((by simp [Memory.read] : b' = Memory.read ((a', b') :: m') a').trans ((h a').symm.trans h0)) hb'

/-- Slot `v` after a write to it (20_memory.md R52). -/
theorem Memory.slot_writeSlot_self {m : Memory} (hm : m.wf = true) (base : U64) (v : Byte) (d : U128) :
    (m.writeSlot base v d).slot base v = d := by
  have h := Memory.readBytes_writeBytes_self hm (slotAddr base v) (leBytes descBytes d.toNat)
  rw [leBytes_length] at h
  rw [Memory.slot, Memory.writeSlot, h]
  exact leBits_leBytes (by rfl) d

/-- A slot write leaves every byte outside its 16 alone. -/
theorem Memory.read_writeSlot_other (m : Memory) (base : U64) (v : Byte) (d : U128) {a : Nat}
    (h : a < slotAddr base v ∨ slotAddr base v + descBytes ≤ a) : (m.writeSlot base v d).read a = m.read a :=
  Memory.read_writeBytes_other _ _ (by simpa using h)

theorem Memory.slot_writeSlot_other (m : Memory) (base : U64) {v v' : Byte} (d : U128) (h : v' ≠ v) :
    (m.writeSlot base v d).slot base v' = m.slot base v' := by
  have hv : v'.toNat ≠ v.toNat := fun e => h (BitVec.eq_of_toNat_eq e)
  have ha : slotAddr base v' + descBytes ≤ slotAddr base v ∨
      slotAddr base v + (leBytes descBytes d.toNat).length ≤ slotAddr base v' := by
    simp only [slotAddr, descBytes, leBytes_length]
    omega
  rw [Memory.slot, Memory.writeSlot, Memory.readBytes_writeBytes_other m _ ha, Memory.slot]

theorem Memory.writeSlot_wf {m : Memory} (hm : m.wf = true) (base : U64) (v : Byte) (d : U128) :
    (m.writeSlot base v d).wf = true := Memory.writeBytes_wf hm _ _

/-- A slot write lists nothing new outside the slot. -/
theorem Memory.mem_writeSlot {m : Memory} {base : U64} {v : Byte} {d : U128} {cell : Host.Cell}
    (h : cell ∈ m.writeSlot base v d) :
    cell ∈ m ∨ (slotAddr base v ≤ cell.1 ∧ cell.1 < slotAddr base v + descBytes) := by
  simpa using Memory.mem_writeBytes h

end Machine

end Sys2Proof
end

