-- ==== Sys2Proof/Laws/Operands.lean ====
section
/-! SUPPORT. The fields of a descriptor, read back from the operands of `encodeDesc` (40_encoder.md R102). -/

namespace Sys2Proof.Machine

section Descriptor
variable (kernelCs : U16) (address : U64) (attr : Byte)

theorem descOffsetLow_encodeDesc : descOffsetLow (encodeDesc kernelCs address attr) =
    address.extractLsb' 0 16 := by
  rw [descOffsetLow, encodeDesc, BitVec.extractLsb'_append_eq_of_add_le (by omega)]
  ext i hi
  simp

theorem descSelector_encodeDesc : descSelector (encodeDesc kernelCs address attr) = kernelCs := by
  rw [descSelector, encodeDesc, BitVec.extractLsb'_append_eq_of_le (by omega),
    BitVec.extractLsb'_append_eq_of_add_le (by omega)]
  ext i hi
  simp

theorem descReserved0_encodeDesc : descReserved0 (encodeDesc kernelCs address attr) = 0 := by
  rw [descReserved0, encodeDesc, BitVec.extractLsb'_append_eq_of_le (by omega),
    BitVec.extractLsb'_append_eq_of_le (by omega), BitVec.extractLsb'_append_eq_of_add_le (by omega)]
  ext i hi
  simp

theorem descAttr_encodeDesc : descAttr (encodeDesc kernelCs address attr) = attr := by
  rw [descAttr, encodeDesc, BitVec.extractLsb'_append_eq_of_le (by omega),
    BitVec.extractLsb'_append_eq_of_le (by omega), BitVec.extractLsb'_append_eq_of_le (by omega),
    BitVec.extractLsb'_append_eq_of_add_le (by omega)]
  ext i hi
  simp

theorem descOffsetMid_encodeDesc : descOffsetMid (encodeDesc kernelCs address attr) =
    address.extractLsb' 16 16 := by
  rw [descOffsetMid, encodeDesc, BitVec.extractLsb'_append_eq_of_le (by omega),
    BitVec.extractLsb'_append_eq_of_le (by omega), BitVec.extractLsb'_append_eq_of_le (by omega),
    BitVec.extractLsb'_append_eq_of_le (by omega), BitVec.extractLsb'_append_eq_of_add_le (by omega)]
  ext i hi
  simp

theorem descOffsetHigh_encodeDesc : descOffsetHigh (encodeDesc kernelCs address attr) =
    address.extractLsb' 32 32 := by
  rw [descOffsetHigh, encodeDesc, BitVec.extractLsb'_append_eq_of_le (by omega),
    BitVec.extractLsb'_append_eq_of_le (by omega), BitVec.extractLsb'_append_eq_of_le (by omega),
    BitVec.extractLsb'_append_eq_of_le (by omega), BitVec.extractLsb'_append_eq_of_le (by omega),
    BitVec.extractLsb'_append_eq_of_add_le (by omega)]
  ext i hi
  simp

theorem descReserved1_encodeDesc : descReserved1 (encodeDesc kernelCs address attr) = 0 := by
  rw [descReserved1, encodeDesc, BitVec.extractLsb'_append_eq_of_le (by omega),
    BitVec.extractLsb'_append_eq_of_le (by omega), BitVec.extractLsb'_append_eq_of_le (by omega),
    BitVec.extractLsb'_append_eq_of_le (by omega), BitVec.extractLsb'_append_eq_of_le (by omega),
    BitVec.extractLsb'_append_eq_of_le (by omega)]
  ext i hi
  simp

end Descriptor

end Sys2Proof.Machine
end

