-- ==== Sys2Proof/Laws/Ops.lean ====
section
/-! SUPPORT. What each shared operation can do, said once. -/

namespace Sys2Proof.Machine

/-! ### INIT -/

section Slots
variable (base : U64) (f : U64 → U128)

/-- Slot writes one after the other, as INIT makes them. -/
def Memory.writeSlots (m : Memory) (hs : List (Byte × U64)) : Memory :=
  hs.foldl (fun m h => m.writeSlot base h.1 (f h.2)) m

theorem Memory.writeSlots_cons (m : Memory) (h : Byte × U64) (hs : List (Byte × U64)) :
    m.writeSlots base f (h :: hs) = (m.writeSlot base h.1 (f h.2)).writeSlots base f hs := rfl

theorem Memory.writeSlots_wf (hs : List (Byte × U64)) {m : Memory} (hm : m.wf = true) :
    (m.writeSlots base f hs).wf = true := by
  induction hs generalizing m with
  | nil => exact hm
  | cons h hs ih => exact ih (Memory.writeSlot_wf hm base h.1 (f h.2))

/-- Slot writes to distinct vectors leave each vector's slot as its own write left it. -/
theorem Memory.slot_writeSlots (hs : List (Byte × U64)) (hnd : (hs.map Prod.fst).Nodup) {m : Memory}
    (hm : m.wf = true) (v : Byte) :
    (m.writeSlots base f hs).slot base v = ((hs.lookup v).map f).getD (m.slot base v) := by
  induction hs generalizing m with
  | nil => rfl
  | cons h hs ih =>
    obtain ⟨k, a⟩ := h
    rw [List.map_cons, List.nodup_cons] at hnd
    rw [Memory.writeSlots_cons, ih hnd.2 (Memory.writeSlot_wf hm base k (f a)), List.lookup_cons]
    by_cases hv : v = k
    · subst hv
      have hnone : hs.lookup v = none := by
        rw [List.lookup_eq_none_iff]
        intro p hp
        have hne : v ≠ p.1 := fun e => hnd.1 (List.mem_map.2 ⟨p, hp, e.symm⟩)
        simpa using hne
      simp [hnone, Memory.slot_writeSlot_self hm]
    · have hb : (v == k) = false := by simpa using hv
      rw [Memory.slot_writeSlot_other m base (f a) hv, hb]

/-- Slot writes leave every byte outside those slots alone. -/
theorem Memory.read_writeSlots_other (hs : List (Byte × U64)) (m : Memory) {a : Nat}
    (h : ∀ p ∈ hs, a < slotAddr base p.1 ∨ slotAddr base p.1 + descBytes ≤ a) :
    (m.writeSlots base f hs).read a = m.read a := by
  induction hs generalizing m with
  | nil => rfl
  | cons p hs ih =>
    rw [Memory.writeSlots_cons, ih _ (fun q hq => h q (by simp [hq])),
      Memory.read_writeSlot_other m base p.1 _ (h p (by simp))]

/-- Slot writes list nothing new outside the table. -/
theorem Memory.mem_writeSlots (hs : List (Byte × U64)) {m : Memory} {cell : Host.Cell}
    (h : cell ∈ m.writeSlots base f hs) :
    cell ∈ m ∨ (base.toNat ≤ cell.1 ∧ cell.1 < base.toNat + tableBytes) := by
  induction hs generalizing m with
  | nil => exact .inl h
  | cons p hs ih =>
    rcases ih h with h | h
    · rcases Memory.mem_writeSlot h with h | h
      · exact .inl h
      · have := p.1.isLt
        simp only [slotAddr, descBytes] at h
        simp only [tableBytes]
        right; omega
    · exact .inr h

end Slots

theorem handlers_fst (c : Config) : (handlers c).map Prod.fst = supported := by
  rw [handlers, List.map_fst_zip]
  simp [supported]

theorem Memory.populate_eq (m : Memory) (c : Config) :
    m.populate c = m.writeSlots c.idtBase (fun a => encodeDesc c.kernelCs a gateAttr) (handlers c) := by
  rw [Memory.populate, Memory.writeSlots]

theorem Memory.populate_wf {m : Memory} (hm : m.wf = true) (c : Config) : (m.populate c).wf = true := by
  rw [Memory.populate_eq]
  exact Memory.writeSlots_wf _ _ _ hm

/-- A supported vector's slot holds its gate; every other keeps what it held (41_installer.md R121, R122). -/
theorem Memory.slot_populate {m : Memory} (hm : m.wf = true) (c : Config) (v : Byte) :
    (m.populate c).slot c.idtBase v =
      ((trampolineAddr? c v).map fun a => encodeDesc c.kernelCs a gateAttr).getD (m.slot c.idtBase v) := by
  rw [Memory.populate_eq, trampolineAddr?]
  exact Memory.slot_writeSlots _ _ _ (by rw [handlers_fst]; decide) hm v

theorem Memory.read_populate_other (m : Memory) (c : Config) {a : Nat}
    (h : ∀ v ∈ supported, a < slotAddr c.idtBase v ∨ slotAddr c.idtBase v + descBytes ≤ a) :
    (m.populate c).read a = m.read a := by
  rw [Memory.populate_eq]
  refine Memory.read_writeSlots_other _ _ _ m fun p hp => h p.1 ?_
  rw [← handlers_fst c]
  exact List.mem_map_of_mem hp

theorem Memory.mem_populate {m : Memory} {c : Config} {cell : Host.Cell} (h : cell ∈ m.populate c) :
    cell ∈ m ∨ (c.idtBase.toNat ≤ cell.1 ∧ cell.1 < c.idtBase.toNat + tableBytes) := by
  rw [Memory.populate_eq] at h
  exact Memory.mem_writeSlots _ _ _ h

/-- The vectors with a trampoline are the supported ones. -/
theorem trampolineAddr?_isSome (c : Config) (v : Byte) : (trampolineAddr? c v).isSome = true ↔ v ∈ supported := by
  rw [← handlers_fst c, trampolineAddr?, List.lookup_isSome_iff, List.mem_map]
  exact ⟨fun ⟨p, hp, e⟩ => ⟨p, hp, (beq_iff_eq.1 e).symm⟩, fun ⟨p, hp, e⟩ => ⟨p, hp, beq_iff_eq.2 e.symm⟩⟩

/-- The memory at reset is in canonical form. -/
theorem State.reset_mem_wf : State.reset.mem.wf = true := rfl

/-- All that INIT does (41_installer.md R120, R121). -/
theorem State.initialize_eq (s : State) :
    s.initialize =
      if tableFits s.cfg then
        { s with
          mem       := s.mem.populate s.cfg
          tp        := some (legalPointer s.cfg)
          trace     := s.trace ++ [.install (tpImg (legalPointer s.cfg))]
          installed := true }
      else { s with refused := some .badConfig } := by
  rw [State.initialize]
  split_ifs <;> rfl

/-! ### DISPATCH -/

theorem selectAction_eq (t : I64) :
    selectAction t = if t = 32 then .timer else if t = 39 then .spuriousCheck else .fatal := by
  have h : ∀ x : I64, x &&& 0xFFFFFFFFFFFFFFFF#64 = x := fun x => BitVec.and_allOnes
  simp only [selectAction, actionTable, List.find?]
  by_cases h1 : t = 32#64
  · subst h1; rfl
  · by_cases h2 : t = 39#64
    · subst h2; rfl
    · have e1 : (t &&& 0xFFFFFFFFFFFFFFFF#64 == 0x0000000000000020#64) = false := by
        rw [h]; simpa using h1
      have e2 : (t &&& 0xFFFFFFFFFFFFFFFF#64 == 0x0000000000000027#64) = false := by
        rw [h]; simpa using h2
      simp [h1, h2, e1, e2]

theorem State.timerAction_eq (s : State) : s.timerAction = { s with trace := s.trace ++ [.ack, .ret] } := by
  simp [State.timerAction, State.emit]

theorem State.spuriousAction_eq (s : State) :
    s.spuriousAction =
      { s with
        trace    := s.trace ++ .readIsr s.isrByte :: ((if isrReal s.isrByte then [.ack] else []) ++ [.ret])
        isrNext  := none
        isrReads := s.isrReads + 1 } := by
  simp only [State.spuriousAction]
  split_ifs <;> simp [State.emit, State.consumeIsr]

theorem State.fatalAction_eq (s : State) :
    s.fatalAction = { s with trace := s.trace ++ [.halt], ctl := .halted } := rfl

/-- All that DISPATCH does, by the trap number (42_dispatcher.md R140). -/
theorem State.dispatchRecord_eq (s : State) (r : TrapRecord) :
    s.dispatchRecord r =
      if r.trapno = 32 then s.timerAction
      else if r.trapno = 39 then s.spuriousAction
      else s.fatalAction := by
  rw [State.dispatchRecord, selectAction_eq]
  split_ifs <;> rfl

/-! ### Taking a trap -/

/-- Through the legal pointer the CPU reads `IT[v]` (60_exceptions.md R173). -/
theorem State.lookup_eq {s : State} (h : s.tp = some (legalPointer s.cfg)) (v : Byte) : s.lookup v = .ok (s.slot v) := by
  have hv := v.isLt
  have hw : inWindow s.cfg (slotAddr s.cfg.idtBase v) descBytes = true := by
    rw [inWindow, Bool.and_eq_true, decide_eq_true_iff, decide_eq_true_iff]
    simp only [slotAddr, tableBytes, descBytes]
    omega
  have hl : ¬ (tpLimit.toNat < descBytes * v.toNat + (descBytes - 1)) := by
    have : tpLimit.toNat = 4095 := by decide
    simp only [this, descBytes]
    omega
  simp [State.lookup, h, legalPointer, hl, State.memRead, hw, State.slot, Memory.slot]

/-- A dispatch that returns resumes the context and restores the enable; a fatal one leaves the frame standing. -/
theorem State.takeTrap_eq (s : State) (v : Byte) (ctx : Context) (d : U128) (r : TrapRecord)
    (hr : r = captureRecord v ctx (Config.errcodeDraw s.deliveries)) :
    s.takeTrap v ctx d =
      if r.trapno = 32 ∨ r.trapno = 39 then
        { s.dispatchRecord r with
          frame      := none
          deliveries := s.deliveries + 1
          cpuTrace   := s.cpuTrace ++ [.enter (descAddr d) (descSelector d), .resume ctx] }
      else
        { s.dispatchRecord r with
          frame      := some ⟨r, s.intEnabled⟩
          intEnabled := false
          deliveries := s.deliveries + 1
          cpuTrace   := s.cpuTrace ++ [.enter (descAddr d) (descSelector d)] } := by
  have hctx : recordContext r = ctx := by rw [hr]; rfl
  have htake : s.takeTrap v ctx d = ((s.enterTrap d r).dispatchRecord r).finishTrap := by rw [hr]; rfl
  rw [htake, State.dispatchRecord_eq, State.dispatchRecord_eq]
  clear htake hr
  by_cases h1 : r.trapno = 32
  · simp [h1, State.timerAction_eq, State.finishTrap, State.returned, State.returnFromTrap, State.enterTrap, hctx]
  · by_cases h2 : r.trapno = 39
    · have hlast : (s.enterTrap d r).spuriousAction.trace.getLast? = some .ret := by
        rw [State.spuriousAction_eq]
        cases isrReal (s.enterTrap d r).isrByte <;> simp
      rw [if_neg h1, if_pos h2, if_neg h1, if_pos h2, if_pos (.inr h2), State.finishTrap, State.returned, hlast,
        if_pos (by simp)]
      simp only [State.spuriousAction_eq, State.returnFromTrap, State.enterTrap, State.isrByte, hctx,
        List.append_assoc, List.singleton_append]
      rfl
    · have hlast : (s.enterTrap d r).fatalAction.trace.getLast? = some .halt := by
        simp [State.fatalAction_eq]
      rw [if_neg h1, if_neg h2, if_neg h1, if_neg h2, if_neg (not_or.2 ⟨h1, h2⟩), State.finishTrap, State.returned,
        hlast, if_neg (by simp)]
      rfl

/-- A delivery before INSTALL (60_exceptions.md R172). -/
theorem State.deliver_of_not_installed {s : State} (hi : s.installed = false) (v : Byte) (ctx : Context) :
    s.deliver v ctx = .next (s.raise .notInstalled) := by
  rw [State.deliver, hi, if_neg (by simp)]

/-- A delivery whose slot is read (60_exceptions.md R175, R178). -/
theorem State.deliver_of_lookup {s : State} {v : Byte} {d : U128} (hi : s.installed = true) (hl : s.lookup v = .ok d)
    (ctx : Context) :
    s.deliver v ctx = .next (if d = 0 then s.raise .unpopulatedVector else s.takeTrap v ctx d) := by
  rw [State.deliver, hi, if_pos rfl, hl]

/-- All that a delivery can do where it answers a next state (60_exceptions.md R172, R175, R178). -/
theorem State.deliver_cases {s t : State} {v : Byte} {ctx : Context} (h : s.deliver v ctx = .next t) :
    (s.installed = false ∧ t = s.raise .notInstalled) ∨
      ∃ d, s.installed = true ∧ s.lookup v = .ok d ∧
        ((d = 0 ∧ t = s.raise .unpopulatedVector) ∨ (d ≠ 0 ∧ t = s.takeTrap v ctx d)) := by
  rw [State.deliver] at h
  split at h
  case isFalse hi =>
    left
    exact ⟨by simpa using hi, by injection h with h; exact h.symm⟩
  case isTrue hi =>
    right
    split at h
    · cases h
    · rename_i d hd
      injection h with h
      refine ⟨d, hi, hd, ?_⟩
      split_ifs at h with h0
      · exact .inl ⟨h0, h.symm⟩
      · exact .inr ⟨h0, h.symm⟩

end Sys2Proof.Machine
end

