-- ==== Sys2Proof/Laws/PerInstr.lean ====
section
/-! SUPPORT. Facts about the instructions as syntax, one lemma per constructor. -/

namespace Sys2Proof

@[simp] theorem TrapRecord.fields_length (r : TrapRecord) : r.fields.length = Machine.recFields := by
  simp [TrapRecord.fields, Machine.recFields]

@[simp] theorem TrapRecord.image_length (r : TrapRecord) : r.image.length = Machine.recBytes := by
  have h : (r.fields.map fun f => (leBytes 8 f.toNat).length) = List.replicate r.fields.length 8 := by
    rw [List.eq_replicate_iff]
    simp
  rw [TrapRecord.image, List.length_flatMap, h, TrapRecord.fields_length]
  rfl

/-- An instruction's image has the one length of its format (30_encoding.md R76, R81, R84). -/
def Laws.ImageLength.Statement (i : Instr) : Prop := (encode i).length = i.imageBytes

theorem Laws.ImageLength.encode (address : U64) (attr : Byte) :
    Laws.ImageLength.Statement (.encode address attr) := by
  simp [Laws.ImageLength.Statement, Sys2Proof.encode, Instr.imageBytes]

theorem Laws.ImageLength.init : Laws.ImageLength.Statement .init := rfl

theorem Laws.ImageLength.dispatch (record : TrapRecord) : Laws.ImageLength.Statement (.dispatch record) := by
  simp [Laws.ImageLength.Statement, Sys2Proof.encode, Instr.imageBytes, Machine.recBytes]

theorem Laws.ImageLength.dispatchTimer : Laws.ImageLength.Statement .dispatchTimer := by
  simp [Laws.ImageLength.Statement, Sys2Proof.encode, Instr.imageBytes]

theorem Laws.ImageLength.dispatchSpuriousCheck : Laws.ImageLength.Statement .dispatchSpuriousCheck := by
  simp [Laws.ImageLength.Statement, Sys2Proof.encode, Instr.imageBytes]

theorem Laws.ImageLength.dispatchFatal (trapno : I64) : Laws.ImageLength.Statement (.dispatchFatal trapno) := by
  simp [Laws.ImageLength.Statement, Sys2Proof.encode, Instr.imageBytes]

end Sys2Proof
end

