-- ==== Sys2Proof/Laws/Step.lean ====
section
/-! SUPPORT. What a step can do, said once: by the move it takes, by the command, by the instruction. -/

namespace Sys2Proof.Machine

/-- A step that answers a next state waits, or takes the environment's next move. -/
theorem step_cases {s t : State} (h : step s = .next t) :
    s.fault = none ∧ s.refused = none ∧
      ((s.ctl = .halted ∧ t = s) ∨ (s.ctl = .idle ∧ s.inputs = [] ∧ t = s) ∨
        ∃ i rest, s.ctl = .idle ∧ s.inputs = i :: rest ∧ takeInput i (s.withInputs rest) = .next t) := by
  rw [step, sequenceStep] at h
  split at h
  · cases h
  · cases h
  · rename_i hf hr hc
    injection h with h
    exact ⟨hf, hr, .inl ⟨hc, h.symm⟩⟩
  · rename_i hf hr hc hi
    injection h with h
    exact ⟨hf, hr, .inr (.inl ⟨hc, hi, h.symm⟩)⟩
  · rename_i i rest hf hr hc hi
    exact ⟨hf, hr, .inr (.inr ⟨i, rest, hc, hi, h⟩)⟩

/-- An accepting state takes the next move. -/
theorem step_of_accepting {s : State} {i : Input} {rest : List Input} (hs : s.accepting)
    (hi : s.inputs = i :: rest) : step s = takeInput i (s.withInputs rest) := by
  obtain ⟨hc, hf, hr⟩ := hs
  simp only [step, sequenceStep, hc, hf, hr, hi]

/-- A command that answers a next state runs its instruction, or its opcode is reserved. -/
theorem runCommand_cases {image : List Byte} {s t : State} (h : runCommand image s = .next t) :
    (∃ i, decodeCommand image = .ok i ∧ exec i s = .next t) ∨
      ∃ op, decodeCommand image = .error (.reservedOpcode op) ∧ t = s.refuse .reservedOpcode := by
  rw [runCommand] at h
  split at h
  · rename_i i hi
    exact .inl ⟨i, hi, h⟩
  · rename_i op hop
    injection h with h
    exact .inr ⟨op, hop, h.symm⟩
  · cases h
  · cases h

/-- What each instruction's meaning answers. -/
theorem exec_cases {i : Instr} {s t : State} (h : exec i s = .next t) :
    (∃ a b, i = .encode a b ∧ t = s.putResult (encodeDesc s.cfg.kernelCs a b)) ∨
      (i = .init ∧ t = s.initialize) ∨
      (∃ r, i = .dispatch r ∧ t = s.dispatchRecord r) ∨
      (i = .dispatchTimer ∧ t = s.timerAction) ∨
      (i = .dispatchSpuriousCheck ∧ t = s.spuriousAction) ∨
      (∃ n, i = .dispatchFatal n ∧ t = s.fatalAction) := by
  cases i <;> injection h with h <;> simp [h]

end Sys2Proof.Machine
end

