-- ==== Sys2Proof/Tests/Slice0.lean ====
section
/-! SUPPORT. Tests. Expected values are those of spec/95_test_vectors.md, under its configuration `TV`; the witnesses at
the end show that the hypotheses of the statements can be met together. -/

namespace Sys2Proof.Tests

open Sys2Proof.Machine

/-! ### The test configuration and its states -/

/-- 95_test_vectors.md, configuration `TV`. -/
def tv : Config where
  kernelCs    := 0x0008
  idtBase     := 0xFFFF800000105000
  trampolines := #v[0xFFFF800000200000, 0xFFFF800000200010, 0xFFFF800000200020, 0xFFFF800000200030,
    0xFFFF800000200040, 0xFFFF800000200050, 0xFFFF800000200060, 0xFFFF800000200070, 0xFFFF800000200080,
    0xFFFF8000002000A0, 0xFFFF8000002000B0, 0xFFFF8000002000C0, 0xFFFF8000002000D0, 0xFFFF8000002000E0,
    0xFFFF800000200100, 0xFFFF800000200110, 0xFFFF800000200120, 0xFFFF800000200130, 0xFFFF800000200200,
    0xFFFF800000200270]
  gprOrder    := #v["r15", "r14", "r13", "r12", "r11", "r10", "r9", "r8", "rbp", "rdi", "rsi", "rdx", "rcx", "rbx",
    "rax"]

/-- An interrupted context with a different value in every field. -/
def ctx : Context where
  gpr    := #v[100, 101, 102, 103, 104, 105, 106, 107, 108, 109, 110, 111, 112, 113, 114]
  rip    := 200
  cs     := 201
  rflags := 202
  rsp    := 203
  ss     := 204

/-- Reset under `TV`, with a command sequence to come. -/
def start (lines : List Line) : State := (State.resetWith tv).withProgram lines

/-- The state INIT leaves under `TV` (95_test_vectors.md section 2.2), with a command sequence to come. -/
def booted (lines : List Line) : State := (State.resetWith tv).initialize.withProgram lines

/-- The state after an outcome that is a next state. -/
def next? : Host.Outcome State Fault Refusal → Option State
  | .next s => some s
  | .fault _ => none
  | .refused _ => none

def fault? : Host.Outcome State Fault Refusal → Option Fault
  | .fault f => some f
  | .next _ => none
  | .refused _ => none

def refusal? : Host.Outcome State Fault Refusal → Option Refusal
  | .refused r => some r
  | .next _ => none
  | .fault _ => none

/-! ### Well-formedness: the one check refuses what it should -/

theorem test_wf_refuses_fatal_32 : (Instr.dispatchFatal 32).wf = false := by decide

theorem test_wf_refuses_fatal_39 : (Instr.dispatchFatal 39).wf = false := by decide

theorem test_wf_admits_near_miss : (Instr.dispatchFatal 0x0000000100000020).wf = true := by decide

/-! ### Constants (00_scope.md R8, 90_conflicts.md) -/

theorem test_supported_count : supported.length = 20 ∧ supported.Nodup := by decide

theorem test_constants : tableBytes = nvec * descBytes ∧ tpLimit.toNat = tableBytes - 1 ∧ recBytes = 8 * recFields ∧
    tpBytes = 10 ∧ 8 * trapnoIndex = 120 ∧ (TrapRecord.fields (recordWithTrapno 7))[trapnoIndex]? = some 7 := by decide

/-! ### Decoding (30_encoding.md R81, R83, R84; 95_test_vectors.md sections 2.5 and 3) -/

theorem test_decode_encode_p1 : decodeCommand [0x01, 0xF0, 0xDE, 0xBC, 0x9A, 0x78, 0x56, 0x34, 0x12, 0x8E] =
    .ok (.encode 0x123456789ABCDEF0 0x8E) := by decide

theorem test_decode_init : decodeCommand [0x02] = .ok .init := by decide

/-- A DISPATCH image whose byte 120 is 0x0D and whose byte 0 is 0x77; all others are zero. -/
theorem test_decode_dispatch : (decodeCommand
      ([0x03, 0x77] ++ List.replicate 119 0 ++ [0x0D] ++ List.replicate 55 0)).toOption.map
        (fun i => match i with
          | .dispatch r => (r.trapno, r.gpr[0], r.errcode)
          | _ => (0, 0, 0)) = some (13, 0x77, 0) := by decide +kernel

theorem test_decode_timer : decode .trapno64 [0x20, 0, 0, 0, 0, 0, 0, 0] = .ok .dispatchTimer := by decide

theorem test_decode_spurious : decode .trapno64 [0x27, 0, 0, 0, 0, 0, 0, 0] = .ok .dispatchSpuriousCheck := by decide

theorem test_decode_fatal_negative : decode .trapno64 [0x20, 0, 0, 0, 0, 0, 0, 0x80] =
    .ok (.dispatchFatal 0x8000000000000020) := by decide

theorem test_decode_reserved : decodeCommand [0x00] = .error (.reservedOpcode 0x00) ∧
    decodeCommand [0x04] = .error (.reservedOpcode 0x04) ∧ decodeCommand [0xFF] = .error (.reservedOpcode 0xFF) := by
  decide

theorem test_decode_wrong_length : decodeCommand [] = .error .empty ∧ decodeCommand [0x01] = .error .wrongLength ∧
    decodeCommand [0x02, 0x00] = .error .wrongLength := by decide

/-- No two rows of the command map match one opcode. -/
theorem test_command_rows_disjoint : commandTable.Pairwise fun r r' =>
    r.pattern &&& (r.mask &&& r'.mask) ≠ r'.pattern &&& (r.mask &&& r'.mask) := by decide

theorem test_table_words : decodeTableWord 8 0x01 = some (.encode 0 0) ∧ decodeTableWord 8 0x02 = some .init ∧
    decodeTableWord 8 0x03 = some (.dispatch (recordWithTrapno 0)) ∧ decodeTableWord 64 0x20 = some .dispatchTimer ∧
    decodeTableWord 64 0x27 = some .dispatchSpuriousCheck ∧ decodeTableWord 64 0 = some (.dispatchFatal 0) ∧
    decodeTableWord 8 0x04 = none := by decide +kernel

theorem test_fetch_words_run : (next? (step (State.reset.withFetchWord 8 0x01))).isSome = true ∧
    (next? (step (State.reset.withFetchWord 8 0x02))).isSome = true ∧
    (next? (step (State.reset.withFetchWord 8 0x03))).map (·.ctl) = some .halted ∧
    (next? (step (State.reset.withFetchWord 64 0x20))).map (·.trace) = some [.ack, .ret] := by decide +kernel

/-! ### ENCODE (95_test_vectors.md section 2.1) -/

theorem test_encode_vectors :
    encodeDesc 0x0008 0x123456789ABCDEF0 0x8E = 0x00000000123456789ABC8E000008DEF0 ∧
    encodeDesc 0x0008 0xFFFFFFFFFFFFFFFF 0xFF = 0x00000000FFFFFFFFFFFFFF000008FFFF := by decide

theorem test_encode_command : (next? (step (start [.encode 0x8000000000000000 0x01]))).map
    (fun s => (s.results, s.trace)) = some ([0x00000000800000000000010000080000], []) := by decide +kernel

/-! ### INIT (95_test_vectors.md section 2.2) -/

theorem test_init_slots : (next? (step (start [.init]))).map
      (fun s => (leBytes 16 (s.slot 39).toNat, s.slot 9)) =
    some ([0x70, 0x02, 0x08, 0, 0, 0x8E, 0x20, 0, 0, 0x80, 0xFF, 0xFF, 0, 0, 0, 0], 0) := by decide +kernel

theorem test_init_pointer : (next? (step (start [.init]))).map (fun s => (s.tp, s.installed, s.trace)) =
    some (some ⟨0x0FFF, 0xFFFF800000105000⟩, true, [.install 0xFFFF8000001050000FFF]) := by decide +kernel

/-! ### DISPATCH (95_test_vectors.md section 2.3) -/

theorem test_dispatch_fatal_near_miss : (next? (step (start [.dispatch (recordWithTrapno 0x0000000100000020)]))).map
    (fun s => (s.trace, s.ctl)) = some ([.halt], .halted) := by decide +kernel

theorem test_dispatch_spurious_80 : (next? (step ((start [.dispatch (recordWithTrapno 39)]).fixIsr 0x80))).map
    (fun s => (s.trace, s.ctl)) = some ([.readIsr 0x80, .ack, .ret], .idle) := by decide +kernel

theorem test_row_timer : (next? (exec .dispatchTimer (start []))).map (·.trace) = some [.ack, .ret] := by
  decide +kernel

theorem test_row_spurious : (next? (exec .dispatchSpuriousCheck ((start []).fixIsr 0x81))).map (·.trace) =
    some [.readIsr 0x81, .ack, .ret] := by decide +kernel

theorem test_row_spurious_clear : (next? (exec .dispatchSpuriousCheck ((start []).fixIsr 0x7F))).map (·.trace) =
    some [.readIsr 0x7F, .ret] := by decide +kernel

theorem test_row_fatal : (next? (exec (.dispatchFatal 13) (start []))).map (fun s => (s.trace, s.ctl)) =
    some ([.halt], .halted) := by decide +kernel

/-! ### Trap delivery and sequencing (95_test_vectors.md sections 2.4 and 2.5) -/

theorem test_deliver_before_install : (next? (step (start [.deliver 32 ctx]))).map (fun s => (s.fault, s.trace)) =
    some (some .notInstalled, []) := by decide +kernel

theorem test_deliver_absent : (next? (step (booted [.deliver 33 ctx]))).map (fun s => (s.fault, s.trace)) =
    some (some .unpopulatedVector, [.install 0xFFFF8000001050000FFF]) := by decide +kernel

theorem test_deliver_timer : (next? (step (booted [.deliver 32 ctx]))).map (fun s => (s.trace, s.cpuTrace)) =
    some ([.install 0xFFFF8000001050000FFF, .ack, .ret], [.enter 0xFFFF800000200200 0x0008, .resume ctx]) := by
  decide +kernel

theorem test_deliver_two : (next? (step (booted [.deliver 2 ctx]))).map
      (fun s => (s.cpuTrace, s.ctl, s.frame.map (·.record.trapno), s.intEnabled)) =
    some ([.enter 0xFFFF800000200020 0x0008], .halted, some 2, false) := by decide +kernel

theorem test_reserved_opcode : (next? (step (start [.byte 0x04, .init]))).map (fun s => (s.refused, s.tp, s.trace)) =
    some (some .reservedOpcode, none, []) := by decide +kernel

theorem test_halted_takes_nothing : (next? (step (start [.init]).enterHalted)).map (fun s => (s.tp, s.inputs.length)) =
    some (none, 1) := by decide +kernel

theorem test_faulted_stops : fault? (step ((start [.init]).raise .notInstalled)) = some (.faulted .notInstalled) ∧
    refusal? (step ((start [.init]).refuse .badConfig)) = some (.refusedBefore .badConfig) := by decide +kernel

/-- `GPR_ORDER` names the record's fields; here the order 92_eei_decisions.md D11 calls usual. -/
theorem test_gpr_named : gprNamed tv (captureRecord 32 ctx 0) "r15" = some 100 ∧
    gprNamed tv (captureRecord 32 ctx 0) "rax" = some 114 ∧ gprNamed tv (captureRecord 32 ctx 0) "rsp" = none := by
  decide +kernel

/-! ### Witnesses: the hypotheses of the statements can be met -/

/-- `TV` with its table where it would wrap (95_test_vectors.md section 2.2, configuration corner cases). -/
def tvWrapping : Config := { tv with idtBase := 0xFFFFFFFFFFFFF001 }

/-- `TV` with its table at the top of the address space. -/
def tvTop : Config := { tv with idtBase := 0xFFFFFFFFFFFFF000 }

theorem witness_table_fits : tv.idtBase.toNat ≤ 2 ^ 64 - 4096 ∧ tvTop.idtBase.toNat ≤ 2 ^ 64 - 4096 := by decide

/-- InitRefusesAWrappingTable. -/
theorem witness_table_wraps : (State.resetWith tvWrapping).cfg.idtBase.toNat > 2 ^ 64 - 4096 := by decide

/-- The corner the two share: the highest base is accepted, the next is not. -/
theorem witness_table_corner : (next? (exec .init (State.resetWith tvTop))).map (·.trace) =
      some [.install 0xFFFFFFFFFFFFF0000FFF] ∧
    (next? (exec .init (State.resetWith tvWrapping))).map (fun s => (s.refused, s.tp, s.trace)) =
      some (some .badConfig, none, []) := by decide +kernel

/-- EncodeIsPure: two states that differ and have one `KERNEL_CS`. -/
theorem witness_encode_pure : (start []).cfg.kernelCs = (start [.init]).cfg.kernelCs ∧ start [] ≠ start [.init] := by
  decide +kernel

theorem slot_reset (c : Config) (v : Byte) : (State.resetWith c).slot v = 0 := by
  have h : Memory.readBytes [] (slotAddr c.idtBase v) descBytes = List.replicate 16 0#8 := by
    simp [Memory.readBytes, Memory.read, descBytes, Memory.unlisted]
  rw [State.slot, Memory.slot]
  change leBits 128 (Memory.readBytes [] (slotAddr c.idtBase v) descBytes) = 0
  rw [h]
  decide

/-- InitLeavesThePostState, InitWritesOnlySlotsPointerAndTrace, InitInstallsTheImageBytes. -/
theorem witness_init_post : (start []).mem.wf = true ∧ (start []).cfg.idtBase.toNat ≤ 2 ^ 64 - 4096 ∧
    ∀ v, v ∉ supported → (start []).slot v = 0 :=
  ⟨by decide, by decide, fun v _ => slot_reset tv v⟩

/-- InitAgainOnlyInstallsAgain. -/
theorem witness_init_again : (start []).mem.wf = true ∧ (start []).cfg.idtBase.toNat ≤ 2 ^ 64 - 4096 ∧
    exec .init (start []) = .next (start []).initialize := ⟨by decide, by decide, rfl⟩

/-- InitKeepsUnpopulatedSlots: an end of each range. -/
theorem witness_init_keeps : exec .init (start []) = .next (start []).initialize ∧
    step (start [.init]) = .next ((start [.init]).withInputs []).initialize ∧
    ∀ v ∈ [9, 15, 20, 31, 33, 38, 40, 255], ((v : Byte).toNat = 9 ∨ v.toNat = 15 ∨ (20 ≤ v.toNat ∧ v.toNat ≤ 31) ∨
      (33 ≤ v.toNat ∧ v.toNat ≤ 38) ∨ 40 ≤ v.toNat) := ⟨rfl, rfl, by decide⟩

/-- The statements about DISPATCH, by the trap number; each value is one side of a boundary. -/
theorem witness_dispatch_trapno : (recordWithTrapno 32).trapno = 32 ∧ (recordWithTrapno 39).trapno = 39 ∧
    ∀ n ∈ ([31, 33, 38, 40, 295, 0x0000000100000020] : List I64),
      (recordWithTrapno n).trapno ≠ 32 ∧ (recordWithTrapno n).trapno ≠ 39 := by
  simp [recordWithTrapno]

/-- DispatchReadsOnlyTheTrapNumber: two records that differ elsewhere. -/
theorem witness_dispatch_only_trapno : (captureRecord 32 ctx 5).trapno = (recordWithTrapno 32).trapno ∧
    captureRecord 32 ctx 5 ≠ recordWithTrapno 32 := by decide

/-- DispatchReturnsOrHaltsForever, with a record of each kind. -/
theorem witness_dispatch_returns : (start []).fault = none ∧ (start []).refused = none := by decide

/-- InServiceByteIsTheFixedOneOrADraw: a state with a fixed byte and one without. -/
theorem witness_isr : ((start []).fixIsr 0x80).isrNext = some 0x80 ∧ (start []).isrNext = none := by decide

/-- AllButInitLeaveTheTable, for one instruction of each shape. -/
theorem witness_all_but_init : Instr.encode 1 2 ≠ .init ∧ Instr.dispatchTimer ≠ .init ∧
    exec (.encode 1 2) (start []) = .next ((start []).putResult (encodeDesc 0x0008 1 2)) ∧
    exec .dispatchTimer (start []) = .next (start []).timerAction := ⟨by decide, by decide, rfl, rfl⟩

/-- TrapNumberIsBytes120To127, RecordFieldsAreInOrder. -/
theorem witness_record_image : (recordWithTrapno 13).image.length = 176 := by simp [recBytes]

theorem accepting_start (lines : List Line) : (start lines).accepting := ⟨rfl, rfl, rfl⟩

/-- StepRunsTheDecodedCommand. -/
theorem witness_step_runs : (start [.init]).accepting ∧ (start [.init]).inputs = [.command [0x02]] ∧
    decodeCommand [0x02] = .ok .init := ⟨accepting_start _, rfl, rfl⟩

/-- ReservedOpcodeSetsTheMark, at both ends of the reserved opcodes and beside the commands. -/
theorem witness_reserved : ∀ op ∈ [0x00, 0x04, 0xFF], (start [.byte op]).accepting ∧
    (start [.byte op]).inputs = [.command [op]] ∧ op ≠ 0x01 ∧ op ≠ 0x02 ∧ op ≠ 0x03 := by
  intro op h
  refine ⟨accepting_start _, rfl, ?_⟩
  revert op
  decide

/-- MalformedCommandStops, in each of its cases. -/
theorem witness_malformed : ∀ image ∈ [[], [0x01], [0x02, 0x00], [0x03]],
    ((start []).withInputs [.command image]).accepting ∧
    ((start []).withInputs [.command image]).inputs = [.command image] ∧
    (image = [] ∨ (image.head? = some (0x01 : Byte) ∧ image.length ≠ 10) ∨
      (image.head? = some 0x02 ∧ image.length ≠ 1) ∨ (image.head? = some 0x03 ∧ image.length ≠ 177)) := by
  intro image h
  refine ⟨accepting_start [], rfl, ?_⟩
  revert image
  decide

/-- HaltedOnlyWaits, with a command waiting. -/
theorem witness_halted : (start [.init]).enterHalted.ctl = .halted ∧ (start [.init]).enterHalted.fault = none ∧
    (start [.init]).enterHalted.refused = none := ⟨rfl, rfl, rfl⟩

/-- MarkedStatesTakeNoStep. -/
theorem witness_marked : ((start []).raise .notInstalled).fault = some .notInstalled ∧
    ((start []).refuse .badConfig).fault = none ∧ ((start []).refuse .badConfig).refused = some .badConfig :=
  ⟨rfl, rfl, rfl⟩

/-- IdleWaitsForACommand. -/
theorem witness_idle : (start []).accepting ∧ (start []).inputs = [] := ⟨accepting_start _, rfl⟩

/-- EnvironmentMovesSetTheirField. -/
theorem witness_environment : (start [.isr 0x80]).accepting ∧ (start [.isr 0x80]).inputs = [.isr 0x80] ∧
    ((start []).withInputs [.enableInterrupts]).accepting ∧
    ((start []).withInputs [.enableInterrupts]).inputs = [.enableInterrupts] :=
  ⟨accepting_start _, rfl, accepting_start [], rfl⟩

/-- DeliveryBeforeInstallFaults. -/
theorem witness_deliver_before_install : (start [.deliver 32 ctx]).accepting ∧
    (start [.deliver 32 ctx]).installed = false ∧ (start [.deliver 32 ctx]).inputs = [.deliver 32 ctx] :=
  ⟨accepting_start _, rfl, rfl⟩

theorem booted_eq (lines : List Line) : booted lines = { (State.resetWith tv) with
    mem := Memory.populate [] tv
    tp := some (legalPointer tv)
    trace := [.install (tpImg (legalPointer tv))]
    installed := true
    inputs := lines.filterMap Line.input } := by
  have h : tableFits (State.resetWith tv).cfg = true := by decide
  rw [booted, State.initialize_eq, if_pos h]
  simp only [State.withProgram, State.resetWith, List.nil_append]

theorem accepting_booted (lines : List Line) : (booted lines).accepting := by
  rw [booted_eq]
  exact ⟨rfl, rfl, rfl⟩

/-- The invariant of Safety.lean holds of a machine that has run INIT from reset. -/
theorem inv_initialized (c : Config) (hfits : tableFits c = true) (inputs : List Input) :
    State.Inv { (State.resetWith c) with
      mem := Memory.populate [] c
      tp := some (legalPointer c)
      trace := [.install (tpImg (legalPointer c))]
      installed := true
      inputs := inputs } := by
  have hnil : Memory.wf [] = true := rfl
  refine ⟨⟨Memory.populate_wf hnil c, fun cell h => ?_⟩, ?_, ⟨by simp, by simp [State.resetWith]⟩,
    by simp [State.resetWith], by simp [State.resetWith]⟩
  · rcases Memory.mem_populate h with h | h
    · cases h
    · rw [inWindow, Bool.and_eq_true, decide_eq_true_iff, decide_eq_true_iff]
      change c.idtBase.toNat ≤ _ ∧ _ ≤ c.idtBase.toNat + tableBytes
      omega
  · rw [State.tableInv, if_pos rfl]
    refine ⟨hfits, rfl, fun v => ?_⟩
    change (Memory.populate [] c).slot c.idtBase v = installedSlot c v
    rw [Memory.slot_populate hnil, installedSlot]
    cases trampolineAddr? c v with
    | some a => rfl
    | none => exact slot_reset c v

theorem inv_booted (lines : List Line) : (booted lines).Inv := by
  rw [booted_eq]
  exact inv_initialized tv (by decide) _

theorem installed_booted (lines : List Line) : (booted lines).installed = true := by
  rw [booted_eq]

theorem inputs_booted (lines : List Line) : (booted lines).inputs = lines.filterMap Line.input := by
  rw [booted_eq]

/-- DeliveryToAbsentSlotFaults, and its kin with the invariant (DeliveryOfUnsupportedVectorFaults). -/
theorem witness_deliver_absent : (booted [.deliver 9 ctx]).Inv ∧ (booted [.deliver 9 ctx]).accepting ∧
    (booted [.deliver 9 ctx]).installed = true ∧ (9 : Byte) ∉ supported ∧
    (booted [.deliver 9 ctx]).inputs = [.deliver 9 ctx] ∧
    (booted [.deliver 9 ctx]).tp = some ⟨4095, (booted [.deliver 9 ctx]).cfg.idtBase⟩ ∧
    (booted [.deliver 9 ctx]).slot 9 = 0 := by
  refine ⟨inv_booted _, accepting_booted _, installed_booted _, by decide, inputs_booted _, ?_, ?_⟩
  · rw [booted_eq]
    rfl
  · decide +kernel

/-- DeliveredTimerResumesTheContext, DeliveredSpuriousResumesTheContext, DeliveredFatalHaltsWithItsRecord, and the
statements that rest on the invariant and on a step (with `test_deliver_timer`, whose step answers a next state). -/
theorem witness_deliver_supported : ∀ v ∈ [32, 39, 0, 19], (booted [.deliver v ctx]).Inv ∧
    (booted [.deliver v ctx]).accepting ∧ (booted [.deliver v ctx]).installed = true ∧ v ∈ supported ∧
    (booted [.deliver v ctx]).inputs = [.deliver v ctx] := by
  intro v h
  refine ⟨inv_booted _, accepting_booted _, installed_booted _, ?_, inputs_booted _⟩
  revert v
  decide

/-- The invariant holds after reset, with a command sequence to come. -/
theorem inv_start (lines : List Line) : (start lines).Inv := by
  refine ⟨⟨rfl, fun cell h => ?_⟩, ⟨rfl, rfl⟩, ⟨?_, rfl⟩, ⟨fun h => ?_, fun h => ?_⟩, fun img h => ?_⟩
  · cases h
  · exact List.not_mem_nil
  · exact Bool.noConfusion h
  · exact absurd h List.not_mem_nil
  · exact absurd h List.not_mem_nil

/-- The statements about a step that answers a next state (the invariant holds before each): one that runs INIT and so
writes the table, the pointer and `installed`; one that raises a fault; one that sets the refusal mark. -/
theorem witness_steps : (∀ lines, (start lines).Inv) ∧
    step (start [.init]) = .next ((start [.init]).withInputs []).initialize ∧
    step (start [.deliver 32 ctx]) = .next (((start [.deliver 32 ctx]).withInputs []).raise .notInstalled) ∧
    step (start [.byte 0x04]) = .next (((start [.byte 0x04]).withInputs []).refuse .reservedOpcode) :=
  ⟨inv_start, rfl, rfl, rfl⟩

theorem witness_steps_change : ((start [.init]).withInputs []).initialize.tp ≠ (start [.init]).tp ∧
    (((start [.deliver 32 ctx]).withInputs []).raise .notInstalled).fault ≠ (start [.deliver 32 ctx]).fault ∧
    (((start [.byte 0x04]).withInputs []).refuse .reservedOpcode).refused ≠ (start [.byte 0x04]).refused := by
  decide +kernel

/-- DecodeOfEncodeIsTheInstruction, EncodeOfDecodeIsTheImage. -/
theorem witness_round_trip : (Instr.dispatchFatal 13).wf = true ∧ decode .cmd8 [0x02] = .ok .init ∧
    decode .trapno64 [0x20, 0, 0, 0, 0, 0, 0, 0] = .ok .dispatchTimer := by decide

/-- FetchWordRunsTheTableRow, for a word of each format. -/
theorem witness_fetch_word : (start []).accepting ∧ decodeTableWord 8 0x02 = some .init ∧
    decodeTableWord 64 0x20 = some .dispatchTimer := ⟨accepting_start _, by decide +kernel, by decide +kernel⟩

end Sys2Proof.Tests
end

namespace Sys2Proof.Machine

/-! ### The populated slots -/

/-- A nonzero attribute byte keeps a descriptor from being the absent one (40_encoder.md R105). -/
theorem encodeDesc_ne_zero (kernelCs : U16) (address : U64) {attr : Byte} (h : attr ≠ 0) :
    encodeDesc kernelCs address attr ≠ 0 := by
  intro h0
  have hattr : descAttr (encodeDesc kernelCs address attr) = 0 := by rw [h0]; rfl
  exact h ((descAttr_encodeDesc kernelCs address attr).symm.trans hattr)

/-- INIT populates the slots of the supported vectors and no other (00_scope.md R16, 41_installer.md R125). -/
theorem installedSlot_ne_zero_iff (c : Config) (v : Byte) : installedSlot c v ≠ 0 ↔ v ∈ supported := by
  rw [← trampolineAddr?_isSome c, installedSlot]
  cases trampolineAddr? c v with
  | some a => simpa using encodeDesc_ne_zero c.kernelCs a (attr := gateAttr) (by decide)
  | none => simp

/-- In an installed state every slot is as INIT leaves it (41_installer.md R125). -/
theorem State.Inv.slot_eq {s : State} (h : s.Inv) (hi : s.installed = true) (v : Byte) :
    s.slot v = installedSlot s.cfg v := by
  obtain ⟨-, htable, -, -⟩ := h
  rw [State.tableInv, if_pos hi] at htable
  obtain ⟨-, -, hslot⟩ := htable
  exact hslot v

theorem mem_supported_iff_toNat (v : Byte) :
    v ∈ supported ↔
      v.toNat ∈ [0, 1, 2, 3, 4, 5, 6, 7, 8, 10, 11, 12, 13, 14, 16, 17, 18, 19, 32, 39] :=
  (List.mem_map_of_injective (f := BitVec.toNat) fun _ _ => BitVec.eq_of_toNat_eq).symm

/-- Settles O50: each slot is as INIT leaves it, and INIT leaves a gate exactly where a vector is supported. -/
theorem populatedSlotsAreTheSupportedOnes : Obligations.PopulatedSlotsAreTheSupportedOnes := by
  intro s h hi v
  rw [h.slot_eq hi v, installedSlot_ne_zero_iff, mem_supported_iff_toNat]

end Sys2Proof.Machine

namespace Sys2Proof

/-! ### The decoder of commands -/

theorem selectCommand_eq_some_iff (op : Byte) (c : Command) : selectCommand op = some c ↔ op = c.opcode := by
  have hmask : ∀ x : Byte, x &&& 0xFF#8 = x := fun x => BitVec.and_allOnes
  simp only [selectCommand, commandTable, List.find?]
  by_cases h1 : op = 0x01#8
  · subst h1; cases c <;> decide
  by_cases h2 : op = 0x02#8
  · subst h2; cases c <;> decide
  by_cases h3 : op = 0x03#8
  · subst h3; cases c <;> decide
  have e1 : (op == 0x01#8) = false := beq_false_of_ne h1
  have e2 : (op == 0x02#8) = false := beq_false_of_ne h2
  have e3 : (op == 0x03#8) = false := beq_false_of_ne h3
  cases c <;> simp [hmask, h1, h2, h3, e1, e2, e3, Command.opcode]

/-- An opcode with as many operand bytes as its command carries decodes (30_encoding.md R81). -/
theorem decodeCommand_opcode_cons {c : Command} {operands : List Byte} (h : operands.length = c.operandBytes) :
    decodeCommand (c.opcode :: operands) = .ok (decodeOperands c operands) := by
  rw [decodeCommand, (selectCommand_eq_some_iff _ c).2 rfl]
  exact if_pos h

/-- Nothing else decodes (30_encoding.md R81). -/
theorem decodeCommand_eq_ok {image : List Byte} {i : Instr} (h : decodeCommand image = .ok i) :
    ∃ c operands, image = Command.opcode c :: operands ∧ operands.length = c.operandBytes ∧
      i = decodeOperands c operands := by
  cases image with
  | nil => cases h
  | cons op operands =>
    rw [decodeCommand] at h
    split at h
    · cases h
    · rename_i c hc
      split_ifs at h with hlen
      injection h with h
      exact ⟨c, operands, by rw [(selectCommand_eq_some_iff op c).1 hc], hlen, h.symm⟩

/-! ### The image of a record -/

/-- The fields of an image's record, by index (10_state.md R30, 30_encoding.md R76). -/
theorem fields_recordOfImage (img : List Byte) :
    (recordOfImage img).fields = (List.range Machine.recFields).map (recordField img) := by
  rw [TrapRecord.fields, recordOfImage, Vector.toList_ofFn]
  rfl

theorem leBytes_recordField {img : List Byte} {i : Nat} (h : 8 * i + 8 ≤ img.length) :
    leBytes 8 (recordField img i).toNat = (img.drop (8 * i)).take 8 := by
  have hlen : ((img.drop (8 * i)).take 8).length = 8 := by
    rw [List.length_take, List.length_drop]
    omega
  have hbytes := leBytes_leBits (w := 64) ((img.drop (8 * i)).take 8) (by rw [hlen])
  rwa [hlen] at hbytes

/-- The first `n` fields of an image, put side by side, are its first `8·n` bytes. -/
theorem flatMap_leBytes_recordField {img : List Byte} {n : Nat} (h : 8 * n ≤ img.length) :
    ((List.range n).flatMap fun i => leBytes 8 (recordField img i).toNat) = img.take (8 * n) := by
  induction n with
  | zero => simp
  | succ n ih =>
    rw [List.range_succ, List.flatMap_append, ih (by omega), List.flatMap_singleton,
      leBytes_recordField (by omega), Nat.mul_succ, List.take_add]

theorem image_recordOfImage {img : List Byte} (h : img.length = Machine.recBytes) :
    (recordOfImage img).image = img := by
  have hlen : img.length = 8 * Machine.recFields := h
  rw [TrapRecord.image, fields_recordOfImage, List.flatMap_map, flatMap_leBytes_recordField hlen.ge,
    List.take_of_length_le hlen.le]

/-- Settles O25: the record is that of the operand bytes, and its image puts its fields side by side again. -/
theorem recordFieldsAreInOrder : Obligations.RecordFieldsAreInOrder := by
  intro img h
  refine ⟨recordOfImage img, decodeCommand_opcode_cons (c := .dispatch) h, image_recordOfImage h, fun i => ?_,
    rfl, rfl, rfl, rfl, rfl, rfl, rfl⟩
  simp [recordOfImage, recordField]

end Sys2Proof

namespace Sys2Proof.Machine

/-! ### What a move can do to the unit -/

/-- What a move can leave of a state that takes it. Fields of the environment's side that no statement about the unit
reads may take any value. -/
inductive Effect (s : State) : Input → State → Prop where
  /-- ENCODE and the moves that reach no command touch nothing of the unit. -/
  | quiet (i : Input) (results : List U128) (isrNext : Option Byte) (intEnabled : Bool) :
      Effect s i { s with results := results, isrNext := isrNext, intEnabled := intEnabled }
  /-- A delivery that takes no trap (60_exceptions.md R172, R178). -/
  | raise (v : Byte) (ctx : Context) (k : FaultKind) : Effect s (.deliver v ctx) (s.raise k)
  /-- A reserved opcode, or an INIT whose table would wrap (30_encoding.md R83, 41_installer.md R120). -/
  | refuse (image : List Byte) (k : RefusalKind) : Effect s (.command image) (s.refuse k)
  /-- An INIT whose table fits (41_installer.md R121). -/
  | install (hfits : tableFits s.cfg = true) :
      Effect s (.command [0x02]) ((s.populate.setPointer (legalPointer s.cfg)).install (legalPointer s.cfg))
  /-- A dispatch that returned, of a command or of a delivery: no frame stands that stood not before
  (42_dispatcher.md R142, R143, 60_exceptions.md R184). -/
  | returned (i : Input) (events : List Event) (isrNext : Option Byte) (isrReads deliveries : Nat)
      (frame : Option TrapFrame) (cpuTrace : List CpuEvent) (hinstall : ∀ img, .install img ∉ events)
      (hhalt : .halt ∉ events) (hframe : s.frame = none → frame = none) :
      Effect s i { s with
        trace := s.trace ++ events
        isrNext := isrNext
        isrReads := isrReads
        deliveries := deliveries
        frame := frame
        cpuTrace := cpuTrace }
  /-- A dispatch that halted, of a command or of a delivery (42_dispatcher.md R145). -/
  | halted (i : Input) (deliveries : Nat) (frame : Option TrapFrame) (intEnabled : Bool) (cpuTrace : List CpuEvent) :
      Effect s i { s with
        trace := s.trace ++ [.halt]
        ctl := .halted
        deliveries := deliveries
        frame := frame
        intEnabled := intEnabled
        cpuTrace := cpuTrace }

/-- A dispatch of trap number 32 or 39 appends events that are neither an INSTALL nor a HALT (42_dispatcher.md R142,
R143). -/
theorem State.dispatchRecord_of_returns (s : State) {r : TrapRecord} (h : r.trapno = 32 ∨ r.trapno = 39) :
    ∃ events isrNext isrReads,
      s.dispatchRecord r =
        { s with trace := s.trace ++ events, isrNext := isrNext, isrReads := isrReads } ∧
      (∀ img, .install img ∉ events) ∧ .halt ∉ events := by
  rw [State.dispatchRecord_eq]
  by_cases h32 : r.trapno = 32
  · rw [if_pos h32, State.timerAction_eq]
    exact ⟨_, _, _, rfl, by simp, by simp⟩
  · rw [if_neg h32, if_pos (h.resolve_left h32), State.spuriousAction_eq]
    refine ⟨_, _, _, rfl, ?_, ?_⟩ <;> cases isrReal s.isrByte <;> simp

/-- A dispatch of any other trap number halts (42_dispatcher.md R145). -/
theorem State.dispatchRecord_of_fatal (s : State) {r : TrapRecord} (h : ¬ (r.trapno = 32 ∨ r.trapno = 39)) :
    s.dispatchRecord r = s.fatalAction := by
  obtain ⟨h32, h39⟩ := not_or.1 h
  rw [State.dispatchRecord_eq, if_neg h32, if_neg h39]

theorem effect_dispatchRecord (s : State) (i : Input) (r : TrapRecord) : Effect s i (s.dispatchRecord r) := by
  by_cases h : r.trapno = 32 ∨ r.trapno = 39
  · obtain ⟨events, isrNext, isrReads, heq, hinstall, hhalt⟩ := s.dispatchRecord_of_returns h
    rw [heq]
    exact .returned i events isrNext isrReads s.deliveries s.frame s.cpuTrace hinstall hhalt id
  · rw [s.dispatchRecord_of_fatal h, State.fatalAction_eq]
    exact .halted i s.deliveries s.frame s.intEnabled s.cpuTrace

theorem effect_takeTrap (s : State) (i : Input) (v : Byte) (ctx : Context) (d : U128) :
    Effect s i (s.takeTrap v ctx d) := by
  rw [s.takeTrap_eq v ctx d _ rfl]
  split_ifs with h
  · obtain ⟨events, isrNext, isrReads, heq, hinstall, hhalt⟩ := s.dispatchRecord_of_returns h
    rw [heq]
    exact .returned i events isrNext isrReads _ none _ hinstall hhalt fun _ => rfl
  · rw [s.dispatchRecord_of_fatal h, State.fatalAction_eq]
    exact .halted i _ _ false _

theorem effect_execInit {s t : State} (h : exec .init s = .next t) : Effect s (.command [0x02]) t := by
  injection h with h
  rw [← h, State.initialize_eq]
  split_ifs with hfits
  · exact .install hfits
  · exact .refuse [0x02] .badConfig

theorem effect_runCommand {image : List Byte} {s t : State} (h : runCommand image s = .next t) :
    Effect s (.command image) t := by
  obtain ⟨i, hdec, hexec⟩ | ⟨op, -, rfl⟩ := runCommand_cases h
  · obtain ⟨c, operands, rfl, hlen, rfl⟩ := decodeCommand_eq_ok hdec
    cases c with
    | encode =>
      injection hexec with hexec
      subst hexec
      exact .quiet _ _ s.isrNext s.intEnabled
    | init =>
      rw [List.length_eq_zero_iff.1 hlen]
      exact effect_execInit hexec
    | dispatch =>
      injection hexec with hexec
      subst hexec
      exact effect_dispatchRecord s _ _
  · exact .refuse image .reservedOpcode

/-- Every move a state can take has one of the effects. -/
theorem effect_takeInput {i : Input} {s t : State} (h : takeInput i s = .next t) : Effect s i t := by
  cases i with
  | command image => exact effect_runCommand h
  | deliver v ctx =>
    obtain ⟨-, rfl⟩ | ⟨d, -, -, ⟨-, rfl⟩ | ⟨-, rfl⟩⟩ := State.deliver_cases h
    · exact .raise v ctx .notInstalled
    · exact .raise v ctx .unpopulatedVector
    · exact effect_takeTrap s _ v ctx d
  | isr b =>
    injection h with h
    subst h
    exact .quiet _ s.results (some b) s.intEnabled
  | enableInterrupts =>
    injection h with h
    subst h
    exact .quiet _ s.results s.isrNext true

/-- A step that answers a next state starts unmarked, and waits or takes a move with its effect. -/
theorem step_effect {s t : State} (h : step s = .next t) :
    s.fault = none ∧ s.refused = none ∧
      (t = s ∨ ∃ i rest, s.ctl = .idle ∧ s.inputs = i :: rest ∧ Effect (s.withInputs rest) i t) := by
  obtain ⟨hf, hr, ⟨-, rfl⟩ | ⟨-, -, rfl⟩ | ⟨i, rest, hc, hi, ht⟩⟩ := step_cases h
  · exact ⟨hf, hr, .inl rfl⟩
  · exact ⟨hf, hr, .inl rfl⟩
  · exact ⟨hf, hr, .inr ⟨i, rest, hc, hi, effect_takeInput ht⟩⟩

/-! ### What a step leaves of each field of the unit -/

/-- Settles O42: no effect names the configuration. -/
theorem stepNeverWritesTheConfiguration : Obligations.StepNeverWritesTheConfiguration := by
  intro s t h
  obtain ⟨-, -, rfl | ⟨i, rest, -, -, he⟩⟩ := step_effect h
  · rfl
  · cases he <;> simp

/-- Settles O43: where an effect names the trace, it appends to it. -/
theorem stepOnlyAppendsEvents : Obligations.StepOnlyAppendsEvents := by
  intro s t h
  obtain ⟨-, -, rfl | ⟨i, rest, -, -, he⟩⟩ := step_effect h
  · simp
  · cases he <;> simp

/-- Settles O44: `installed` is named only by the INIT that installs. -/
theorem installedStaysAndNeedsAnInstall : Obligations.InstalledStaysAndNeedsAnInstall := by
  intro s t h
  obtain ⟨-, -, rfl | ⟨i, rest, -, -, he⟩⟩ := step_effect h
  · exact ⟨id, fun hs ht => by simp [hs] at ht⟩
  · cases he with
    | install => simp
    | _ => simp +contextual

/-- Settles O45: the table, the pointer and `installed` are named only by the INIT that installs. -/
theorem onlyInitCommandsWriteTheTable : Obligations.OnlyInitCommandsWriteTheTable := by
  intro s t h hne
  obtain ⟨-, -, rfl | ⟨i, rest, -, hi, he⟩⟩ := step_effect h
  · simp at hne
  · cases he with
    | install => exact ⟨rest, hi⟩
    | _ => simp at hne

/-- Settles O47: the fault is named only by a delivery, and a marked state takes no step. -/
theorem onlyDeliveryRaisesFaults : Obligations.OnlyDeliveryRaisesFaults := by
  intro s t h hne
  obtain ⟨hf, -, rfl | ⟨i, rest, -, hi, he⟩⟩ := step_effect h
  · exact absurd rfl hne
  · cases he with
    | raise v ctx => exact ⟨hf, v, ctx, rest, hi⟩
    | _ => simp at hne

/-- Settles O48: the refusal mark is named only by a command, and a marked state takes no step. -/
theorem onlyCommandsAreRefused : Obligations.OnlyCommandsAreRefused := by
  intro s t h hne
  obtain ⟨-, hr, rfl | ⟨i, rest, -, hi, he⟩⟩ := step_effect h
  · exact absurd rfl hne
  · cases he with
    | refuse image => exact ⟨hr, image, rest, hi⟩
    | _ => simp at hne

/-- Settles O17: the trap number alone selects the action. -/
theorem dispatchReadsOnlyTheTrapNumber : Obligations.DispatchReadsOnlyTheTrapNumber := by
  intro r r' s h
  simp only [exec, execDispatch, State.dispatchRecord_eq, h]

/-! ### Every step keeps the invariant -/

/-- The empty memory holds the zero table (70_reset_and_hazards.md R210). -/
theorem Memory.slot_nil (base : U64) (v : Byte) : Memory.slot [] base v = 0 := by
  change leBits 128 ((List.range descBytes).map fun _ => Memory.unlisted) = 0
  decide

/-- A vector without a trampoline has the zero slot, before INIT and after it (41_installer.md R122). -/
theorem State.Inv.slot_eq_zero {s : State} (h : s.Inv) {v : Byte} (hv : trampolineAddr? s.cfg v = none) :
    s.slot v = 0 := by
  by_cases hi : s.installed = true
  · rw [h.slot_eq hi v, installedSlot, hv]
  · obtain ⟨-, htable, -, -⟩ := h
    rw [State.tableInv, if_neg hi] at htable
    obtain ⟨-, hmem⟩ := htable
    rw [State.slot, hmem, Memory.slot_nil]

theorem State.memInv_populate {s : State} (h : s.memInv) : s.populate.memInv := by
  obtain ⟨hwf, hwin⟩ := h
  rw [State.memInv, State.populate_mem, State.populate_cfg]
  refine ⟨Memory.populate_wf hwf _, fun cell hc => ?_⟩
  rcases Memory.mem_populate hc with hc | hc
  · exact hwin cell hc
  · rw [inWindow, Bool.and_eq_true, decide_eq_true_iff, decide_eq_true_iff]
    omega

/-- INIT writes every supported slot, and the others are zero already (41_installer.md R125). -/
theorem State.Inv.slot_populate {s : State} (h : s.Inv) (v : Byte) :
    s.populate.slot v = installedSlot s.cfg v := by
  obtain ⟨⟨hwf, -⟩, -, -, -⟩ := id h
  have hslot : s.populate.slot v = _ := Memory.slot_populate hwf s.cfg v
  rw [hslot, installedSlot]
  cases hv : trampolineAddr? s.cfg v with
  | some a => rfl
  | none => exact h.slot_eq_zero hv

theorem State.ctlInv_of_idle {s : State} (hc : s.ctl = .idle) :
    s.ctlInv ↔ .halt ∉ s.trace ∧ s.frame = none := by
  rw [State.ctlInv, hc]

theorem State.ctlInv_of_halted {s : State} (hc : s.ctl = .halted) :
    s.ctlInv ↔ s.trace.getLast? = some .halt ∧ s.fault = none ∧ s.refused = none := by
  rw [State.ctlInv, hc]

/-- The invariant on INSTALL events does not see other events appended. -/
theorem State.traceInv_append {s t : State} {events : List Event} (h : s.traceInv) (hcfg : t.cfg = s.cfg)
    (hinstalled : t.installed = s.installed) (htrace : t.trace = s.trace ++ events)
    (hno : ∀ img, .install img ∉ events) : t.traceInv := by
  simpa [State.traceInv, hcfg, hinstalled, htrace, hno] using h

/-- An INSTALL of the one image makes the invariant on INSTALL events hold of a state that is installed. -/
theorem State.traceInv_install {s : State} (h : s.traceInv) : (s.install (legalPointer s.cfg)).traceInv := by
  obtain ⟨-, himg⟩ := h
  refine ⟨by simp, fun img hmem => ?_⟩
  rw [State.install_trace, List.mem_append] at hmem
  rcases hmem with hmem | hmem
  · exact himg img hmem
  · simpa using hmem

theorem State.Inv.install {s : State} (h : s.Inv) (hfits : tableFits s.cfg = true) (hc : s.ctl = .idle) :
    ((s.populate.setPointer (legalPointer s.cfg)).install (legalPointer s.cfg)).Inv := by
  have hslot := h.slot_populate
  obtain ⟨hmem, -, hctl, htrace⟩ := h
  obtain ⟨hhalt, hframe⟩ := (State.ctlInv_of_idle hc).1 hctl
  refine ⟨State.memInv_populate hmem, ?_, ?_, ?_⟩
  · rw [State.tableInv, if_pos (by simp)]
    exact ⟨hfits, rfl, hslot⟩
  · exact (State.ctlInv_of_idle (by simpa using hc)).2 ⟨by simpa using hhalt, by simpa using hframe⟩
  · exact State.traceInv_install (s := s.populate.setPointer (legalPointer s.cfg)) htrace

/-- Every effect on an unmarked idle state keeps the invariant. -/
theorem Effect.inv {s t : State} {i : Input} (he : Effect s i t) (h : s.Inv) (hc : s.ctl = .idle)
    (hf : s.fault = none) (hr : s.refused = none) : t.Inv := by
  obtain ⟨hmem, htable, hctl, htrace⟩ := id h
  obtain ⟨hhalt, hframe⟩ := (State.ctlInv_of_idle hc).1 hctl
  cases he with
  | quiet => exact h
  | raise v ctx k => exact ⟨hmem, htable, (State.ctlInv_of_idle (s := s.raise k) hc).2 ⟨hhalt, hframe⟩, htrace⟩
  | refuse image k => exact ⟨hmem, htable, (State.ctlInv_of_idle (s := s.refuse k) hc).2 ⟨hhalt, hframe⟩, htrace⟩
  | install hfits => exact h.install hfits hc
  | returned _ events _ _ _ _ _ hinstall hhalt' hframe' =>
    exact ⟨hmem, htable, (State.ctlInv_of_idle (by exact hc)).2 ⟨by simp [hhalt, hhalt'], hframe' hframe⟩,
      State.traceInv_append htrace rfl rfl rfl hinstall⟩
  | halted =>
    exact ⟨hmem, htable, (State.ctlInv_of_halted rfl).2 ⟨by simp, hf, hr⟩,
      State.traceInv_append htrace rfl rfl rfl (by simp)⟩

/-- Settles O39: a step waits, or its move's effect keeps the invariant, which does not read the queue. -/
theorem stepKeepsTheTableAndControlSound : Obligations.StepKeepsTheTableAndControlSound := by
  intro s t h hstep
  obtain ⟨hf, hr, rfl | ⟨i, rest, hc, -, he⟩⟩ := step_effect hstep
  · exact h
  · exact he.inv (s := s.withInputs rest) h hc hf hr

end Sys2Proof.Machine

namespace Sys2Proof

/-! ### Byte runs of a little-endian value (20_memory.md R53) -/

theorem leNat_cons_mod (b : Byte) (bs : List Byte) : leNat (b :: bs) % 256 = b.toNat := by
  rw [leNat, Nat.add_mul_mod_self_left, Nat.mod_eq_of_lt b.isLt]

theorem leNat_cons_div (b : Byte) (bs : List Byte) : leNat (b :: bs) / 256 = leNat bs := by
  rw [leNat, Nat.add_mul_div_left _ _ (by decide), Nat.div_eq_of_lt b.isLt, Nat.zero_add]

theorem leNat_take (bs : List Byte) (k : Nat) : leNat (bs.take k) = leNat bs % 256 ^ k := by
  induction bs generalizing k with
  | nil => simp [leNat]
  | cons b bs ih =>
    cases k with
    | zero => simp [leNat, Nat.mod_one]
    | succ k => rw [List.take_succ_cons, Nat.pow_succ', Nat.mod_mul, leNat_cons_mod, leNat_cons_div, leNat, ih]

theorem leNat_drop (bs : List Byte) (k : Nat) : leNat (bs.drop k) = leNat bs / 256 ^ k := by
  induction bs generalizing k with
  | nil => simp [leNat]
  | cons b bs ih =>
    cases k with
    | zero => simp
    | succ k => rw [List.drop_succ_cons, ih, Nat.pow_succ', ← Nat.div_div_eq_div_mul, leNat_cons_div]

/-- Bytes `i .. i + n - 1` of a little-endian value are the bytes at those places of its list. -/
theorem extractLsb'_leBits {w i n : Nat} (bs : List Byte) (h : 8 * (i + n) ≤ w) :
    (leBits w bs).extractLsb' (8 * i) (8 * n) = leBits (8 * n) ((bs.drop i).take n) := by
  have hw : 2 ^ w = 256 ^ i * (256 ^ n * 2 ^ (w - 8 * (i + n))) := by
    rw [← Nat.mul_assoc, ← Nat.pow_add, ← Nat.pow_mul 2 8, ← Nat.pow_add, Nat.add_sub_cancel' h]
  apply BitVec.eq_of_toNat_eq
  rw [BitVec.extractLsb'_toNat, leBits, leBits, BitVec.toNat_ofNat, BitVec.toNat_ofNat, leNat_take, leNat_drop,
    Nat.shiftRight_eq_div_pow, Nat.pow_mul, Nat.pow_mul, hw, Nat.mod_mul_right_div_self,
    Nat.mod_mul_right_mod, Nat.mod_mod]

theorem leBits_singleton (b : Byte) : leBits 8 [b] = b := by
  simp [leBits, leNat]

namespace Machine

/-! ### The bytes of a slot (20_memory.md) -/

theorem Memory.take_drop_readBytes (m : Memory) (a : Nat) {i k n : Nat} (h : i + k ≤ n) :
    ((m.readBytes a n).drop i).take k = m.readBytes (a + i) k := by
  apply List.ext_getElem
  · simp only [Memory.readBytes, List.length_take, List.length_drop, List.length_map, List.length_range]
    omega
  · intro j _ _
    simp [Memory.readBytes, Nat.add_assoc]

/-- A run of a slot's bytes is the little-endian value of the table memory there (R52, R53). -/
theorem State.extractLsb'_slot (s : State) (v : Byte) {i n : Nat} (h : i + n ≤ descBytes) :
    (s.slot v).extractLsb' (8 * i) (8 * n) = leBits (8 * n) (s.mem.readBytes (slotAddr s.cfg.idtBase v + i) n) := by
  have hbits : 8 * (i + n) ≤ 128 := Nat.mul_le_mul_left 8 h
  rw [State.slot, Memory.slot, extractLsb'_leBits _ hbits, Memory.take_drop_readBytes _ _ h]

/-- A descriptor's two lowest fields are its low 32 bits (40_encoder.md R102). -/
theorem descSelector_append_descOffsetLow (d : U128) : descSelector d ++ descOffsetLow d = d.extractLsb' 0 32 :=
  BitVec.extractLsb'_append_extractLsb'_eq_extractLsb' (x := d) (start₁ := 0) (len₁ := 16) (len₂ := 16) rfl

/-- Every slot lies in the table window, so a read of its first bytes completes (R50). -/
theorem State.memRead_slotAddr (s : State) (v : Byte) {n : Nat} (h : n ≤ descBytes) :
    s.memRead (slotAddr s.cfg.idtBase v) n = some (s.mem.readBytes (slotAddr s.cfg.idtBase v) n) := by
  have hv : v.toNat < 256 := v.isLt
  apply if_pos
  rw [inWindow, Bool.and_eq_true, decide_eq_true_iff, decide_eq_true_iff]
  simp only [slotAddr, tableBytes, descBytes] at h ⊢
  omega

/-- Settles O51: byte `k` is the run of length one at offset `k`, and the 16-byte read is what a slot is defined by. -/
theorem slotIsItsSixteenBytes : Obligations.SlotIsItsSixteenBytes := by
  intro s v
  refine ⟨fun k hk => ?_, _, s.memRead_slotAddr v (n := 16) le_rfl, rfl⟩
  exact (s.extractLsb'_slot v (n := 1) hk).trans (leBits_singleton _)

/-- Settles O52: the run of length four at offset 0 is the two lowest fields side by side. -/
theorem fourByteReadIsSelectorAndOffset : Obligations.FourByteReadIsSelectorAndOffset := by
  intro s v
  refine ⟨_, s.memRead_slotAddr v (n := 4) (by decide), ?_⟩
  have hrun := s.extractLsb'_slot v (i := 0) (n := 4) (by decide)
  rw [descSelector_append_descOffsetLow]
  exact hrun.symm

end Machine

end Sys2Proof

namespace Sys2Proof

/-! ### Bytes and their value (20_memory.md R53) -/

theorem leNat_append (bs bs' : List Byte) : leNat (bs ++ bs') = leNat bs + 256 ^ bs.length * leNat bs' := by
  induction bs with
  | nil => simp [leNat]
  | cons b bs ih =>
    rw [List.cons_append, leNat, leNat, ih, List.length_cons, Nat.pow_succ', Nat.mul_add, Nat.mul_assoc, Nat.add_assoc]

theorem leBytes_leBits_of_length {w n : Nat} {bs : List Byte} (hlen : bs.length = n) (hw : w = 8 * n) :
    leBytes n (leBits w bs).toNat = bs := by
  subst hlen
  exact leBytes_leBits bs hw

/-! ### The selection table as instructions (30_encoding.md R84) -/

/-- Settles O21: the table's rows are tried in order, and the last matches every trap number. -/
theorem trapNumberSelectsItsRow : Obligations.TrapNumberSelectsItsRow := by
  intro n
  rw [decodeTrapno, Machine.selectAction_eq]
  split_ifs <;> rfl

@[simp] theorem decodeTrapno_format (n : I64) : (decodeTrapno n).format = .trapno64 := by
  rw [trapNumberSelectsItsRow n]
  split_ifs <;> rfl

@[simp] theorem decodeTrapno_wf (n : I64) : (decodeTrapno n).wf = true := by
  rw [trapNumberSelectsItsRow n]
  split_ifs with h32 h39
  · rfl
  · rfl
  · exact (Bool.and_eq_true _ _).mpr ⟨decide_eq_true h32, decide_eq_true h39⟩

/-- TIMER and SPURIOUS_CHECK have one trap number each, and FATAL carries its own. -/
@[simp] theorem encode_decodeTrapno (n : I64) : encode (decodeTrapno n) = leBytes 8 n.toNat := by
  rw [trapNumberSelectsItsRow n]
  split_ifs with h32 h39
  · rw [h32]; rfl
  · rw [h39]; rfl
  · rfl

/-- The table selects every well-formed row. -/
theorem exists_eq_decodeTrapno {i : Instr} (hf : i.format = .trapno64) (hwf : i.wf = true) :
    ∃ n, i = decodeTrapno n := by
  cases i with
  | encode address attr => cases hf
  | init => cases hf
  | dispatch record => cases hf
  | dispatchTimer => exact ⟨32, rfl⟩
  | dispatchSpuriousCheck => exact ⟨39, rfl⟩
  | dispatchFatal trapno =>
    obtain ⟨h32, h39⟩ := (Bool.and_eq_true _ _).mp hwf
    exact ⟨trapno, by rw [trapNumberSelectsItsRow, if_neg (of_decide_eq_true h32), if_neg (of_decide_eq_true h39)]⟩

theorem decode_trapno64_leBytes (n : Nat) :
    decode .trapno64 (leBytes 8 n) = .ok (decodeTrapno (BitVec.ofNat 64 n)) := by
  have hbits : leBits 64 (leBytes 8 n) = BitVec.ofNat 64 n := by
    rw [leBits, leNat_leBytes]
    exact BitVec.eq_of_toNat_eq (by simp)
  rw [decode, if_pos (leBytes_length 8 n), hbits]

/-! ### A record read back from its image (30_encoding.md R76) -/

/-- Fields put side by side: the eight bytes from `8·i` on are those of field `i`. -/
theorem take_drop_flatMap_leBytes {fields : List I64} {i : Nat} (h : i < fields.length) :
    ((fields.flatMap fun f => leBytes 8 f.toNat).drop (8 * i)).take 8 = leBytes 8 fields[i].toNat := by
  induction fields generalizing i with
  | nil => cases h
  | cons f fields ih =>
    rw [List.flatMap_cons]
    cases i with
    | zero => exact List.take_left' (leBytes_length 8 _)
    | succ i =>
      have hi : 8 * (i + 1) = (leBytes 8 f.toNat).length + 8 * i := by
        rw [leBytes_length]
        omega
      rw [hi, List.drop_length_add_append]
      exact ih (Nat.lt_of_succ_lt_succ h)

theorem recordField_image (r : TrapRecord) {i : Nat} (h : i < r.fields.length) :
    recordField r.image i = r.fields[i] := by
  rw [recordField, TrapRecord.image, take_drop_flatMap_leBytes h, leBits_leBytes (by rfl)]

/-- The field list names every field of the record (10_state.md R30). -/
theorem TrapRecord.fields_injective {r r' : TrapRecord} (h : r.fields = r'.fields) : r = r' := by
  obtain ⟨hgpr, hrest⟩ := List.append_inj h (by simp)
  cases r
  cases r'
  rw [TrapRecord.mk.injEq]
  exact ⟨Vector.toList_inj.1 hgpr, by simpa using hrest⟩

theorem recordOfImage_image (r : TrapRecord) : recordOfImage r.image = r := by
  apply TrapRecord.fields_injective
  rw [fields_recordOfImage]
  refine List.ext_getElem (by simp) fun i _ h => ?_
  rw [List.getElem_map, List.getElem_range, recordField_image r h]

/-! ### Decode and encode (30_encoding.md R81, R84) -/

theorem decodeCommand_encode {i : Instr} (h : i.format = .cmd8) : decodeCommand (encode i) = .ok i := by
  cases i with
  | encode address attr =>
    have hlen : (leBytes 8 address.toNat ++ leBytes 1 attr.toNat).length = Command.operandBytes .encode := by
      simp [Command.operandBytes]
    rw [encode, decodeCommand_opcode_cons hlen, decodeOperands, List.take_left' (leBytes_length 8 _),
      List.drop_left' (leBytes_length 8 _), leBits_leBytes (by rfl), leBits_leBytes (by rfl)]
  | init => exact decodeCommand_opcode_cons (c := .init) rfl
  | dispatch record =>
    have hlen : record.image.length = Command.operandBytes .dispatch := record.image_length
    rw [encode, decodeCommand_opcode_cons hlen, decodeOperands, recordOfImage_image]
  | dispatchTimer => cases h
  | dispatchSpuriousCheck => cases h
  | dispatchFatal trapno => cases h

/-- Settles O53: a command's image decodes by its opcode, a row's image by the trap number it is. -/
theorem decodeOfEncodeIsTheInstruction : Obligations.DecodeOfEncodeIsTheInstruction := by
  intro i hwf
  cases hf : i.format with
  | cmd8 => exact decodeCommand_encode hf
  | trapno64 =>
    obtain ⟨n, rfl⟩ := exists_eq_decodeTrapno hf hwf
    rw [encode_decodeTrapno, decode_trapno64_leBytes, BitVec.ofNat_toNat, BitVec.setWidth_eq]

theorem decodeOperands_format (c : Command) (operands : List Byte) : (decodeOperands c operands).format = .cmd8 := by
  cases c <;> rfl

theorem decodeOperands_wf (c : Command) (operands : List Byte) : (decodeOperands c operands).wf = true := by
  cases c <;> rfl

/-- Operand bytes of the right number are kept whole. -/
theorem encode_decodeOperands {c : Command} {operands : List Byte} (h : operands.length = c.operandBytes) :
    encode (decodeOperands c operands) = c.opcode :: operands := by
  cases c with
  | encode =>
    have h9 : operands.length = 9 := h
    have htake : (operands.take 8).length = 8 := by simp [h9]
    have hdrop : (operands.drop 8).length = 1 := by simp [h9]
    rw [decodeOperands, encode, leBytes_leBits_of_length htake rfl, leBytes_leBits_of_length hdrop rfl,
      List.take_append_drop]
  | init => rw [List.length_eq_zero_iff.1 h]; rfl
  | dispatch => rw [decodeOperands, encode, image_recordOfImage h]

/-- Settles O54: what decodes is an opcode with its operand bytes, or the eight bytes of a trap number. -/
theorem encodeOfDecodeIsTheImage : Obligations.EncodeOfDecodeIsTheImage := by
  intro f image i h
  cases f with
  | cmd8 =>
    obtain ⟨c, operands, rfl, hlen, rfl⟩ := decodeCommand_eq_ok h
    exact ⟨decodeOperands_format c operands, decodeOperands_wf c operands, encode_decodeOperands hlen⟩
  | trapno64 =>
    rw [decode] at h
    split_ifs at h with hlen
    injection h with h
    subst h
    exact ⟨decodeTrapno_format _, decodeTrapno_wf _,
      (encode_decodeTrapno _).trans (leBytes_leBits_of_length hlen rfl)⟩

/-- Settles O56: a command line's image is its instruction's own. -/
theorem programLinesIssueTheirCommands : Obligations.ProgramLinesIssueTheirCommands := by
  intro a b r
  exact ⟨⟨_, rfl, decodeCommand_encode rfl⟩, ⟨_, rfl, decodeCommand_encode rfl⟩,
    ⟨_, rfl, decodeCommand_encode rfl⟩⟩

theorem decodeCommand_reserved {op : Byte} (operands : List Byte) (h : ∀ c, op ≠ Command.opcode c) :
    decodeCommand (op :: operands) = .error (.reservedOpcode op) := by
  have hnone : selectCommand op = none :=
    Option.eq_none_iff_forall_ne_some.2 fun c hc => h c ((selectCommand_eq_some_iff op c).1 hc)
  rw [decodeCommand, hnone]

theorem decodeCommand_wrongLength {c : Command} {operands : List Byte} (h : operands.length ≠ c.operandBytes) :
    decodeCommand (c.opcode :: operands) = .error .wrongLength := by
  rw [decodeCommand, (selectCommand_eq_some_iff _ c).2 rfl]
  exact if_neg h

/-- Settles O55: the images are those of their instructions, and 0x04 is no command's opcode. -/
theorem writtenOutImagesDecode : Obligations.WrittenOutImagesDecode :=
  ⟨decodeOfEncodeIsTheInstruction (.encode 0x123456789ABCDEF0 0x8E) rfl, decodeOfEncodeIsTheInstruction .init rfl,
    decodeOfEncodeIsTheInstruction .dispatchTimer rfl, decodeOfEncodeIsTheInstruction .dispatchSpuriousCheck rfl,
    decodeOfEncodeIsTheInstruction (.dispatchFatal 0x0000000100000020) rfl,
    decodeCommand_reserved [] fun c => by cases c <;> decide⟩

/-! ### The trap number's place in a record image (30_encoding.md R77) -/

theorem take_drop_eq_map_getD {img : List Byte} {i n : Nat} (h : i + n ≤ img.length) :
    (img.drop i).take n = (List.range n).map fun k => img.getD (i + k) 0 := by
  refine List.ext_getElem (by simpa using Nat.le_sub_of_add_le' h) fun k _ hk => ?_
  have hk : k < n := by simpa using hk
  have hlt : i + k < img.length := by omega
  simp [List.getElem?_eq_getElem hlt]

/-- A field of an image as a number, in Horner's form. -/
theorem toNat_recordField {img : List Byte} {i : Nat} (h : 8 * i + 8 ≤ img.length) :
    (recordField img i).toNat = leNat ((List.range 8).map fun k => img.getD (8 * i + k) 0) := by
  have hlt := leNat_lt ((List.range 8).map fun k => img.getD (8 * i + k) 0)
  rw [List.length_map, List.length_range] at hlt
  rw [recordField, take_drop_eq_map_getD h, leBits, BitVec.toNat_ofNat]
  exact Nat.mod_eq_of_lt hlt

/-- Settles O24: the trap number is field 15, and Horner's form multiplied out is the sum of the statement. -/
theorem trapNumberIsBytes120To127 : Obligations.TrapNumberIsBytes120To127 := by
  intro img h
  refine ⟨recordOfImage img, decodeCommand_opcode_cons (c := .dispatch) h, ?_⟩
  have hrange : List.range 8 = [0, 1, 2, 3, 4, 5, 6, 7] := rfl
  refine (toNat_recordField (i := 15) (by omega)).trans ?_
  simp only [hrange, List.map, leNat, Nat.reduceMul, Nat.reduceAdd]
  omega

namespace Machine

/-! ### Commands taken from the queue (30_encoding.md R82, R83) -/

theorem step_of_command {s : State} {image : List Byte} {rest : List Input} (hs : s.accepting)
    (hi : s.inputs = .command image :: rest) : step s = runCommand image (s.withInputs rest) :=
  step_of_accepting hs hi

theorem runCommand_of_ok {image : List Byte} {i : Instr} (h : decodeCommand image = .ok i) (s : State) :
    runCommand image s = exec i s := by
  rw [runCommand, h]

/-- Settles O26: what decodes is well formed, and the step runs it. -/
theorem stepRunsTheDecodedCommand : Obligations.StepRunsTheDecodedCommand := by
  intro s image rest i hs hi hdec
  obtain ⟨-, hwf, -⟩ := encodeOfDecodeIsTheImage .cmd8 image i hdec
  exact ⟨hwf, (step_of_command hs hi).trans (runCommand_of_ok hdec _)⟩

/-- Settles O27: a reserved opcode is no command's, whatever bytes follow it. -/
theorem reservedOpcodeSetsTheMark : Obligations.ReservedOpcodeSetsTheMark := by
  intro s op operands rest hs hi h1 h2 h3
  have hop : ∀ c, op ≠ Command.opcode c
    | .encode => h1
    | .init => h2
    | .dispatch => h3
  rw [step_of_command hs hi, runCommand, decodeCommand_reserved operands hop]
  rfl

theorem runCommand_of_wrongLength {c : Command} {image : List Byte} (hop : image.head? = some c.opcode)
    (hlen : image.length ≠ c.operandBytes + 1) (s : State) : runCommand image s = .refused .malformedCommand := by
  obtain ⟨operands, rfl⟩ := List.head?_eq_some_iff.1 hop
  rw [runCommand, decodeCommand_wrongLength fun h => hlen (congrArg (· + 1) h)]

/-- Settles O28: one case per way to be no command. -/
theorem malformedCommandStops : Obligations.MalformedCommandStops := by
  intro s image rest hs hi h
  rw [step_of_command hs hi]
  obtain rfl | ⟨hop, hlen⟩ | ⟨hop, hlen⟩ | ⟨hop, hlen⟩ := h
  · rfl
  · exact runCommand_of_wrongLength (c := .encode) hop hlen _
  · exact runCommand_of_wrongLength (c := .init) hop hlen _
  · exact runCommand_of_wrongLength (c := .dispatch) hop hlen _

/-- Settles O30: the marks are looked at before anything else, the fault first. -/
theorem markedStatesTakeNoStep : Obligations.MarkedStatesTakeNoStep := by
  intro s f k
  refine ⟨fun hf => ?_, fun hf hr => ?_⟩
  · simp only [step, sequenceStep, hf]
  · simp only [step, sequenceStep, hf, hr]

/-- Settles O32: each move's update names one field. -/
theorem environmentMovesSetTheirField : Obligations.EnvironmentMovesSetTheirField := by
  intro s b rest hs
  exact ⟨step_of_accepting hs, step_of_accepting hs⟩

/-! ### Instructions as operations on the state -/

theorem exec_init (s : State) : exec .init s = execInit s := rfl

theorem exec_dispatch (r : TrapRecord) (s : State) : exec (.dispatch r) s = .next (s.dispatchRecord r) := rfl

/-- Settles O20: the action selected is the meaning of its row. -/
theorem dispatchRunsTheSelectedRow : Obligations.DispatchRunsTheSelectedRow := by
  intro r s
  rw [exec_dispatch, State.dispatchRecord_eq, trapNumberSelectsItsRow r.trapno]
  split_ifs <;> rfl

/-- The command a table word is presented as runs the instruction the word decodes to: itself, or the row that its
trap number selects. -/
theorem runCommand_fetchImage {nbits w : Nat} {i : Instr} (h : decodeTableWord nbits w = some i) (s : State) :
    runCommand (fetchImage nbits w) s = exec i s := by
  rw [decodeTableWord] at h
  rw [fetchImage]
  split_ifs at h ⊢ with hbits
  · rw [decode_trapno64_leBytes] at h
    injection h with h
    rw [runCommand_of_ok (decodeCommand_encode rfl), dispatchRunsTheSelectedRow, ← h]
    rfl
  · cases hdec : decodeCommand (tableImage nbits w) with
    | error e => rw [decode, hdec] at h; cases h
    | ok j =>
      rw [decode, hdec] at h
      injection h with h
      rw [runCommand_of_ok hdec, h]

/-- Settles O57: the word's command stands first in the queue. -/
theorem fetchWordRunsTheTableRow : Obligations.FetchWordRunsTheTableRow := by
  intro s nbits w i hs h
  exact (step_of_command (s := s.withFetchWord nbits w) hs rfl).trans (runCommand_fetchImage h s)

/-! ### ENCODE's descriptor and INIT's pointer image (30_encoding.md R70, R74, R75) -/

/-- Settles O2: the result is `encodeDesc` of the operands, whose fields are read back one by one. -/
theorem encodePlacesEveryField : Obligations.EncodePlacesEveryField := fun a b s =>
  ⟨encodeDesc s.cfg.kernelCs a b, rfl, descOffsetLow_encodeDesc _ a b, descSelector_encodeDesc _ a b,
    descReserved0_encodeDesc _ a b, descAttr_encodeDesc _ a b, descOffsetMid_encodeDesc _ a b,
    descOffsetHigh_encodeDesc _ a b, descReserved1_encodeDesc _ a b⟩

theorem tpImg_toNat (tp : TablePointer) : (tpImg tp).toNat = tp.limit.toNat + 256 ^ 2 * tp.base.toNat := by
  rw [tpImg, BitVec.toNat_append, ← Nat.shiftLeft_add_eq_or_of_lt tp.limit.isLt, Nat.shiftLeft_eq]
  omega

/-- The image is the limit's two bytes, then the base's eight (30_encoding.md R74). -/
theorem leBytes_tpImg (tp : TablePointer) :
    leBytes 10 (tpImg tp).toNat = leBytes 2 tp.limit.toNat ++ leBytes 8 tp.base.toNat := by
  have hlimit : leNat (leBytes 2 tp.limit.toNat) = tp.limit.toNat :=
    (leNat_leBytes 2 _).trans (Nat.mod_eq_of_lt tp.limit.isLt)
  have hbase : leNat (leBytes 8 tp.base.toNat) = tp.base.toNat :=
    (leNat_leBytes 8 _).trans (Nat.mod_eq_of_lt tp.base.isLt)
  have himg := leBytes_leNat (leBytes 2 tp.limit.toNat ++ leBytes 8 tp.base.toNat)
  rwa [leNat_append, List.length_append, leBytes_length, leBytes_length, hlimit, hbase, ← tpImg_toNat] at himg

/-- Settles O12: the image is the two fields side by side. -/
theorem pointerImageHoldsLimitAndBase : Obligations.PointerImageHoldsLimitAndBase := fun _ =>
  ⟨BitVec.extractLsb'_append_eq_right, BitVec.extractLsb'_append_eq_left⟩

/-- Settles O11: where the table fits, INIT installs the image of the legal pointer, whose limit is the bytes FF 0F. -/
theorem initInstallsTheImageBytes : Obligations.InitInstallsTheImageBytes := by
  intro s hfits
  have hinit : tableFits s.cfg = true := decide_eq_true hfits
  have hlimit : leBytes 2 tpLimit.toNat = [0xFF, 0x0F] := by decide
  rw [exec_init, execInit, State.initialize_eq, if_pos hinit]
  refine ⟨_, _, rfl, rfl, rfl, ?_⟩
  rw [leBytes_tpImg, legalPointer, hlimit]
  rfl

end Machine

end Sys2Proof

namespace Sys2Proof.Machine

/-! ### The laws of ENCODE (40_encoder.md R101, R103, R104, R105) -/

/-- The three address fields of a descriptor, put side by side, are the address it was made of. -/
theorem descAddr_encodeDesc (kernelCs : U16) (address : U64) (attr : Byte) :
    descAddr (encodeDesc kernelCs address attr) = address := by
  have hupper : address.extractLsb' 32 32 ++ address.extractLsb' 16 16 = address.extractLsb' 16 48 :=
    BitVec.extractLsb'_append_extractLsb'_eq_extractLsb' rfl
  have hwhole : address.extractLsb' 16 48 ++ address.extractLsb' 0 16 = address.extractLsb' 0 64 :=
    BitVec.extractLsb'_append_extractLsb'_eq_extractLsb' rfl
  rw [descAddr, descOffsetHigh_encodeDesc, descOffsetMid_encodeDesc, descOffsetLow_encodeDesc, hupper]
  exact hwhole.trans BitVec.extractLsb'_eq_self

/-- Settles O1: each field of the descriptor reads back its operand. -/
theorem encodeObeysTheFieldLaw : Obligations.EncodeObeysTheFieldLaw := fun cs a b =>
  ⟨descAddr_encodeDesc cs a b, descSelector_encodeDesc cs a b, descAttr_encodeDesc cs a b,
    descReserved0_encodeDesc cs a b, descReserved1_encodeDesc cs a b⟩

/-- Settles O4: `descAddr` is a left inverse in the address, `descAttr` in the attribute. -/
theorem encodeRoundTripsAndIsInjective : Obligations.EncodeRoundTripsAndIsInjective := fun cs a _ b _ =>
  ⟨descAddr_encodeDesc cs a b,
    fun h => Function.LeftInverse.injective (fun x => descAddr_encodeDesc cs x b) h,
    fun h => Function.LeftInverse.injective (fun x => descAttr_encodeDesc cs a x) h⟩

/-- Settles O5: the zero descriptor's attribute is zero. -/
theorem encodeOfNonZeroAttrIsNonZero : Obligations.EncodeOfNonZeroAttrIsNonZero := fun cs a _ =>
  ⟨encodeDesc_ne_zero cs a, encodeDesc_ne_zero cs a (by decide)⟩

theorem exec_encode (address : U64) (attr : Byte) (s : State) :
    exec (.encode address attr) s = .next (s.putResult (encodeDesc s.cfg.kernelCs address attr)) := rfl

/-- Settles O3: of the state, the descriptor reads `KERNEL_CS` alone. -/
theorem encodeIsPure : Obligations.EncodeIsPure := by
  intro a b s s' hcs
  refine ⟨_, exec_encode a b s, ?_⟩
  rw [hcs]
  exact exec_encode a b s'

/-! ### The frame of every instruction but INIT (40_encoder.md R101, 42_dispatcher.md R141) -/

/-- Whatever the trap number, a dispatch writes the trace, `ctl` and the in-service byte's fields alone. -/
theorem State.dispatchRecord_frame (s : State) (r : TrapRecord) :
    ∃ trace ctl isrNext isrReads,
      s.dispatchRecord r = { s with trace := trace, ctl := ctl, isrNext := isrNext, isrReads := isrReads } := by
  by_cases h : r.trapno = 32 ∨ r.trapno = 39
  · obtain ⟨events, isrNext, isrReads, heq, -, -⟩ := s.dispatchRecord_of_returns h
    exact ⟨_, _, _, _, heq⟩
  · rw [s.dispatchRecord_of_fatal h]
    exact ⟨_, _, _, _, s.fatalAction_eq⟩

/-- An instruction other than INIT puts out a result, or writes what a dispatch writes. -/
theorem exec_frame_of_ne_init {i : Instr} {s t : State} (hi : i ≠ .init) (h : exec i s = .next t) :
    (∃ d, t = s.putResult d) ∨
      ∃ trace ctl isrNext isrReads,
        t = { s with trace := trace, ctl := ctl, isrNext := isrNext, isrReads := isrReads } := by
  obtain ⟨a, b, -, rfl⟩ | ⟨rfl, -⟩ | ⟨r, -, rfl⟩ | ⟨-, rfl⟩ | ⟨-, rfl⟩ | ⟨n, -, rfl⟩ := exec_cases h
  · exact .inl ⟨_, rfl⟩
  · exact absurd rfl hi
  · exact .inr (s.dispatchRecord_frame r)
  · exact .inr ⟨_, _, _, _, s.timerAction_eq⟩
  · exact .inr ⟨_, _, _, _, s.spuriousAction_eq⟩
  · exact .inr ⟨_, _, _, _, s.fatalAction_eq⟩

/-- Settles O23: neither of the two updates names any other field. -/
theorem allButInitLeaveTheTable : Obligations.AllButInitLeaveTheTable := by
  intro i s t hi h
  obtain ⟨d, rfl⟩ | ⟨trace, ctl, isrNext, isrReads, rfl⟩ := exec_frame_of_ne_init hi h
  · exact ⟨fun _ => rfl, fun _ => rfl, rfl, rfl, rfl, rfl, rfl, rfl, rfl, rfl, rfl, rfl, .inr ⟨rfl, rfl⟩⟩
  · exact ⟨fun _ => rfl, fun _ => rfl, rfl, rfl, rfl, rfl, rfl, rfl, rfl, rfl, rfl, rfl, .inl rfl⟩

end Sys2Proof.Machine

namespace Sys2Proof.Machine

/-! ### What INIT answers (41_installer.md R120, R121) -/

/-- Where the table fits, INIT populates it, writes the legal pointer and installs it (R121). -/
theorem exec_init_of_fits {s : State} (hfits : s.cfg.idtBase.toNat ≤ 2 ^ 64 - 4096) :
    exec .init s = .next { s with
      mem := s.mem.populate s.cfg
      tp := some (legalPointer s.cfg)
      trace := s.trace ++ [.install (tpImg (legalPointer s.cfg))]
      installed := true } := by
  have hinit : tableFits s.cfg = true := decide_eq_true hfits
  rw [exec_init, execInit, State.initialize_eq, if_pos hinit]

/-- Settles O7: the configuration check is INIT's first branch, and it fails. -/
theorem initRefusesAWrappingTable : Obligations.InitRefusesAWrappingTable := by
  intro s hwraps
  have hinit : ¬ tableFits s.cfg = true := fun h => Nat.not_le_of_gt hwraps (of_decide_eq_true h)
  rw [exec_init, execInit, State.initialize_eq, if_neg hinit]

/-- Settles O8: INIT's one memory operation is `Memory.populate`, which writes the supported slots alone. -/
theorem initWritesOnlySlotsPointerAndTrace : Obligations.InitWritesOnlySlotsPointerAndTrace := by
  intro s hfits
  exact ⟨s.mem.populate s.cfg, exec_init_of_fits hfits, fun a h => s.mem.read_populate_other s.cfg h⟩

/-! ### The slots INIT populates (41_installer.md R125) -/

theorem exists_trampolineAddr? (c : Config) {v : Byte} (hv : v ∈ supported) : ∃ a, trampolineAddr? c v = some a :=
  Option.isSome_iff_exists.1 ((trampolineAddr?_isSome c v).2 hv)

/-- Populating leaves in a supported slot the gate of its trampoline, whatever the slot held. -/
theorem State.slot_populate_of_trampoline {s : State} (hwf : s.mem.wf = true) {v : Byte} {a : U64}
    (ha : trampolineAddr? s.cfg v = some a) : s.populate.slot v = encodeDesc s.cfg.kernelCs a gateAttr := by
  have hslot : s.populate.slot v = _ := Memory.slot_populate hwf s.cfg v
  rw [hslot, ha]
  rfl

/-- A gate is present, and its fields are those it was made of (40_encoder.md R103, R105). -/
theorem fields_of_eq_gate {kernelCs : U16} {a : U64} {d : U128} (h : d = encodeDesc kernelCs a gateAttr) :
    d ≠ 0 ∧ descAttr d = gateAttr ∧ descSelector d = kernelCs ∧ descAddr d = a := by
  subst h
  exact ⟨encodeDesc_ne_zero kernelCs a (by decide), descAttr_encodeDesc kernelCs a gateAttr,
    descSelector_encodeDesc kernelCs a gateAttr, descAddr_encodeDesc kernelCs a gateAttr⟩

/-! ### The slots INIT does not populate (41_installer.md R122) -/

/-- Populating leaves an unsupported slot as it was, the memory being canonical or not: its bytes lie outside every
supported slot. -/
theorem State.slot_populate_of_not_supported (s : State) {v : Byte} (hv : v ∉ supported) :
    s.populate.slot v = s.slot v := by
  have hread : ∀ k < descBytes, (s.mem.populate s.cfg).read (slotAddr s.cfg.idtBase v + k) =
      s.mem.read (slotAddr s.cfg.idtBase v + k) := by
    intro k hk
    refine s.mem.read_populate_other s.cfg fun w hw => ?_
    have hne : v.toNat ≠ w.toNat := fun e => hv (BitVec.eq_of_toNat_eq e ▸ hw)
    simp only [slotAddr, descBytes] at hk ⊢
    omega
  have hbytes : (s.mem.populate s.cfg).readBytes (slotAddr s.cfg.idtBase v) descBytes =
      s.mem.readBytes (slotAddr s.cfg.idtBase v) descBytes :=
    List.map_congr_left fun k hk => hread k (List.mem_range.1 hk)
  rw [State.slot, State.populate_mem, State.populate_cfg, Memory.slot, hbytes]
  rfl

/-- No move writes the slot of an unsupported vector: of the effects, only INIT's names the memory. -/
theorem Effect.slot_of_not_supported {s t : State} {i : Input} (he : Effect s i t) {v : Byte} (hv : v ∉ supported) :
    t.slot v = s.slot v := by
  cases he with
  | install => exact s.slot_populate_of_not_supported hv
  | _ => rfl

/-- Settles O6: a supported slot holds its trampoline's gate, whose fields read back; the others keep their zero. -/
theorem initLeavesThePostState : Obligations.InitLeavesThePostState := by
  intro s hwf hfits hzero
  refine ⟨_, exec_init_of_fits hfits, fun v hv => ?_, fun v hv => ?_, rfl, rfl⟩
  · obtain ⟨a, ha⟩ := exists_trampolineAddr? s.cfg hv
    have hslot := State.slot_populate_of_trampoline hwf ha
    exact ⟨a, ha, hslot, fields_of_eq_gate hslot⟩
  · exact (s.slot_populate_of_not_supported hv).trans (hzero v hv)

/-- Settles O9: the vectors of R122 are unsupported, so that no effect writes their slots, that of an INIT or of a
step. -/
theorem initKeepsUnpopulatedSlots : Obligations.InitKeepsUnpopulatedSlots := by
  intro s t c v hrange
  have hv : v ∉ supported := by
    rw [mem_supported_iff_toNat]
    simp only [List.mem_cons, List.not_mem_nil, or_false]
    omega
  refine ⟨fun h => (effect_execInit h).slot_of_not_supported hv, fun h => ?_, Memory.slot_nil c.idtBase v⟩
  obtain ⟨-, -, rfl | ⟨i, rest, -, -, he⟩⟩ := step_effect h
  · rfl
  · exact he.slot_of_not_supported hv

/-! ### INIT again (41_installer.md R127) -/

/-- Equal slots have equal bytes (20_memory.md R52). -/
theorem State.read_eq_of_slot_eq {s t : State} {v : Byte} (h : t.slot v = s.slot v) {k : Nat} (hk : k < 16) :
    t.mem.read (slotAddr t.cfg.idtBase v + k) = s.mem.read (slotAddr s.cfg.idtBase v + k) := by
  obtain ⟨hs, -⟩ := slotIsItsSixteenBytes s v
  obtain ⟨ht, -⟩ := slotIsItsSixteenBytes t v
  exact (ht k hk).symm.trans ((congrArg _ h).trans (hs k hk))

/-- Populating a populated table changes nothing: the supported slots get the gates they hold, and no other byte is
written. -/
theorem State.populate_populate_mem {s : State} (hwf : s.mem.wf = true) :
    s.populate.populate.mem = s.populate.mem := by
  have hwf' : s.populate.mem.wf = true := Memory.populate_wf hwf s.cfg
  refine Memory.ext_of_wf (Memory.populate_wf hwf' s.cfg) hwf' fun a => ?_
  by_cases hout : ∀ v ∈ supported, a < slotAddr s.cfg.idtBase v ∨ slotAddr s.cfg.idtBase v + descBytes ≤ a
  · exact s.populate.mem.read_populate_other s.cfg hout
  · push Not at hout
    obtain ⟨v, hv, hlow, hhigh⟩ := hout
    obtain ⟨k, rfl⟩ := Nat.exists_eq_add_of_le hlow
    obtain ⟨addr, haddr⟩ := exists_trampolineAddr? s.cfg hv
    have hslot : s.populate.populate.slot v = s.populate.slot v :=
      (State.slot_populate_of_trampoline (s := s.populate) hwf' haddr).trans
        (State.slot_populate_of_trampoline hwf haddr).symm
    exact State.read_eq_of_slot_eq hslot (Nat.add_lt_add_iff_left.1 hhigh)

/-- Settles O10: populating again keeps the memory, and the pointer and `installed` are set to what they are. -/
theorem initAgainOnlyInstallsAgain : Obligations.InitAgainOnlyInstallsAgain := by
  intro s t hwf hfits h
  rw [exec_init_of_fits hfits] at h
  injection h with h
  subst h
  have hmem : (s.mem.populate s.cfg).populate s.cfg = s.mem.populate s.cfg := State.populate_populate_mem hwf
  refine ⟨_, rfl, ?_⟩
  rw [exec_init_of_fits]
  · simp only [hmem, List.append_assoc, List.singleton_append]
  · exact hfits

end Sys2Proof.Machine

namespace Sys2Proof.Machine

/-! ### The dispatcher's three actions (42_dispatcher.md R142, R143, R145) -/

/-- The events of a SPURIOUS_CHECK that reads the byte `b` (R143). -/
def spuriousEvents (b : Byte) : List Event := .readIsr b :: if b.getLsbD 7 then [.ack, .ret] else [.ret]

theorem count_ack_spuriousEvents (b : Byte) : (spuriousEvents b).count .ack = if b.getLsbD 7 then 1 else 0 := by
  rw [spuriousEvents]
  split_ifs <;> rfl

theorem ret_mem_spuriousEvents (b : Byte) : .ret ∈ spuriousEvents b := by
  rw [spuriousEvents]
  split_ifs <;> simp

theorem State.spuriousAction_eq_spuriousEvents (s : State) :
    s.spuriousAction = { s with
      trace := s.trace ++ spuriousEvents s.isrByte
      isrNext := none
      isrReads := s.isrReads + 1 } := by
  rw [State.spuriousAction_eq, spuriousEvents, isrReal, isrRealBit]
  split_ifs <;> rfl

/-- Settles O13: trap number 32 selects TIMER. -/
theorem dispatchOfTimerAcknowledges : Obligations.DispatchOfTimerAcknowledges := by
  intro r s h32
  rw [exec_dispatch, State.dispatchRecord_eq, if_pos h32, State.timerAction_eq]

/-- Trap number 39 selects SPURIOUS_CHECK (R143). -/
theorem exec_dispatch_of_spurious {r : TrapRecord} (h39 : r.trapno = 39) (s : State) :
    exec (.dispatch r) s = .next { s with
      trace := s.trace ++ spuriousEvents s.isrByte
      isrNext := none
      isrReads := s.isrReads + 1 } := by
  have h32 : r.trapno ≠ 32 := by rw [h39]; decide
  rw [exec_dispatch, State.dispatchRecord_eq, if_neg h32, if_pos h39, State.spuriousAction_eq_spuriousEvents]

/-- Settles O16: every trap number but 32 and 39 selects FATAL. -/
theorem dispatchOfOthersHalts : Obligations.DispatchOfOthersHalts := by
  intro r s h32 h39
  rw [exec_dispatch, s.dispatchRecord_of_fatal (not_or.2 ⟨h32, h39⟩), State.fatalAction_eq]

/-- Settles O22: each row's meaning is its action. -/
theorem selectionRowsAct : Obligations.SelectionRowsAct := fun _ s =>
  ⟨congrArg Host.Outcome.next s.timerAction_eq,
    ⟨_, _, _, congrArg Host.Outcome.next s.spuriousAction_eq_spuriousEvents⟩,
    congrArg Host.Outcome.next s.fatalAction_eq⟩

/-! ### The in-service byte (42_dispatcher.md R143, R144) -/

/-- Settles O14: the update of SPURIOUS_CHECK names, of the unit's state, the trace alone. -/
theorem dispatchOfSpuriousReadsAndAcknowledgesBitSeven :
    Obligations.DispatchOfSpuriousReadsAndAcknowledgesBitSeven := fun _ s h39 =>
  ⟨_, s.isrByte, exec_dispatch_of_spurious h39 s, rfl, rfl, rfl, rfl, rfl, rfl, rfl, rfl⟩

theorem State.isrByte_of_fixed {s : State} {b : Byte} (h : s.isrNext = some b) : s.isrByte = b := by
  rw [State.isrByte, h, Option.getD_some]

theorem State.isrByte_of_free {s : State} (h : s.isrNext = none) : s.isrByte = Config.isrDraw s.isrReads := by
  rw [State.isrByte, h, Option.getD_none]

/-- Settles O15: the byte read is `State.isrByte`. -/
theorem inServiceByteIsTheFixedOneOrADraw : Obligations.InServiceByteIsTheFixedOneOrADraw := fun _ s h39 =>
  ⟨_, s.isrByte, _, exec_dispatch_of_spurious h39 s, rfl, fun _ => State.isrByte_of_fixed, State.isrByte_of_free,
    rfl, rfl⟩

/-! ### Waiting (42_dispatcher.md R146) -/

theorem step_of_halted {s : State} (hc : s.ctl = .halted) (hf : s.fault = none) (hr : s.refused = none) :
    step s = .next s := by
  simp only [step, sequenceStep, hf, hr, hc]

/-- A machine that waits once waits for good: its step reads nothing but the state. -/
theorem run_of_waits {M : Host.Core} {s : M.State} (h : M.step s = .next s) (n : Nat) : M.run n s = .next s := by
  induction n with
  | zero => rfl
  | succ n ih =>
    rw [Host.Core.run, h]
    exact ih

/-- Settles O29: WAIT leaves the state as it is, which is no idle one. -/
theorem haltedOnlyWaits : Obligations.HaltedOnlyWaits := by
  intro s n hc hf hr
  refine ⟨run_of_waits (M := core) (step_of_halted hc hf hr) n, fun ⟨⟨hidle, _⟩, _⟩ => ?_⟩
  rw [hc] at hidle
  cases hidle

/-! ### What a DISPATCH emits (42_dispatcher.md R147, R148) -/

/-- Settles O18: one case per row of the selection table. -/
theorem dispatchAcknowledgesAsCounted : Obligations.DispatchAcknowledgesAsCounted := by
  intro r s
  by_cases h32 : r.trapno = 32
  · exact ⟨_, _, dispatchOfTimerAcknowledges r s h32, rfl, fun _ => rfl,
      fun h39 => absurd (h32.symm.trans h39) (by decide), fun hne => absurd h32 hne⟩
  by_cases h39 : r.trapno = 39
  · exact ⟨_, _, exec_dispatch_of_spurious h39 s, rfl, fun h => absurd h h32,
      fun _ => ⟨s.isrByte, List.mem_cons_self, count_ack_spuriousEvents s.isrByte⟩, fun _ hne => absurd h39 hne⟩
  · exact ⟨_, _, dispatchOfOthersHalts r s h32 h39, rfl, fun h => absurd h h32, fun h => absurd h h39,
      fun _ _ => rfl⟩

/-- Settles O19: TIMER and SPURIOUS_CHECK emit RETURN; FATAL enters HALTED, which only waits. -/
theorem dispatchReturnsOrHaltsForever : Obligations.DispatchReturnsOrHaltsForever := by
  intro r s hf hr
  by_cases h32 : r.trapno = 32
  · exact ⟨_, _, dispatchOfTimerAcknowledges r s h32, rfl, iff_of_true (by simp) (.inl h32),
      fun hne => absurd (.inl h32) hne⟩
  by_cases h39 : r.trapno = 39
  · exact ⟨_, _, exec_dispatch_of_spurious h39 s, rfl, iff_of_true (ret_mem_spuriousEvents _) (.inr h39),
      fun hne => absurd (.inr h39) hne⟩
  · exact ⟨_, _, dispatchOfOthersHalts r s h32 h39, rfl, iff_of_false (by simp) (not_or.2 ⟨h32, h39⟩),
      fun _ => ⟨List.mem_singleton_self _, run_of_waits (M := core) (step_of_halted rfl hf hr)⟩⟩

end Sys2Proof.Machine

namespace Sys2Proof.Machine

/-! ### A delivery taken from the queue (60_exceptions.md R172, R175) -/

section Delivery
variable {s : State} {v : Byte} {ctx : Context} {rest : List Input}

theorem step_of_deliver (hs : s.accepting) (hq : s.inputs = .deliver v ctx :: rest) :
    step s = (s.withInputs rest).deliver v ctx :=
  step_of_accepting hs hq

/-- An installed state that meets the invariant holds the legal pointer (10_state.md R24). -/
theorem State.Inv.tp_eq (h : s.Inv) (hi : s.installed = true) : s.tp = some (legalPointer s.cfg) := by
  obtain ⟨-, htable, -, -⟩ := h
  rw [State.tableInv, if_pos hi] at htable
  obtain ⟨-, htp, -⟩ := htable
  exact htp

/-- Through the legal pointer a delivery reads its slot, and takes the trap unless the slot is absent (R175, R178). -/
theorem State.deliver_of_pointer (hi : s.installed = true) (htp : s.tp = some (legalPointer s.cfg)) :
    s.deliver v ctx = .next (if s.slot v = 0 then s.raise .unpopulatedVector else s.takeTrap v ctx (s.slot v)) :=
  State.deliver_of_lookup hi (State.lookup_eq htp v) ctx

end Delivery

/-! ### Deliveries that take no trap (60_exceptions.md R172, R178) -/

/-- Settles O34: the legal pointer leads to the slot, which is absent. -/
theorem deliveryToAbsentSlotFaults : Obligations.DeliveryToAbsentSlotFaults := by
  intro s v ctx rest hs hi htp hslot hq
  have hslot' : (s.withInputs rest).slot v = 0 := hslot
  rw [step_of_deliver hs hq, State.deliver_of_pointer (s := s.withInputs rest) hi htp, if_pos hslot']
  rfl

/-- Settles O35: the pointer is the legal one, and INIT leaves an unsupported vector's slot absent. -/
theorem deliveryOfUnsupportedVectorFaults : Obligations.DeliveryOfUnsupportedVectorFaults := by
  intro s v ctx rest h hs hi hv hq
  have hslot : s.slot v = 0 := by
    rw [h.slot_eq hi v]
    exact not_not.1 (mt (installedSlot_ne_zero_iff s.cfg v).1 hv)
  exact deliveryToAbsentSlotFaults s v ctx rest hs hi (h.tp_eq hi) hslot hq

/-- Settles O33: `installed` is looked at before the table. -/
theorem deliveryBeforeInstallFaults : Obligations.DeliveryBeforeInstallFaults := by
  intro s v ctx rest hs hi hq
  rw [step_of_deliver hs hq, State.deliver_of_not_installed (s := s.withInputs rest) hi]
  rfl

/-! ### Deliveries through a gate (60_exceptions.md R174, R175, R184) -/

/-- In an installed state a supported vector's slot is the gate of its trampoline (41_installer.md R125). -/
theorem State.Inv.slot_eq_gate {s : State} (h : s.Inv) (hi : s.installed = true) {v : Byte} {a : U64}
    (ha : trampolineAddr? s.cfg v = some a) : s.slot v = encodeDesc s.cfg.kernelCs a gateAttr := by
  rw [h.slot_eq hi v, installedSlot, ha]

/-- Between steps no frame stands in a state that accepts a delivery (R185). -/
theorem State.Inv.frame_eq_none {s : State} (h : s.Inv) (hs : s.accepting) : s.frame = none := by
  obtain ⟨-, -, hctl, -⟩ := h
  obtain ⟨hidle, -, -⟩ := hs
  obtain ⟨-, hframe⟩ := (State.ctlInv_of_idle hidle).1 hctl
  exact hframe

/-- A delivered supported vector takes its trap through the gate of its trampoline. -/
theorem step_of_deliver_supported {s : State} {v : Byte} {ctx : Context} {rest : List Input} (h : s.Inv)
    (hs : s.accepting) (hi : s.installed = true) (hv : v ∈ supported) (hq : s.inputs = .deliver v ctx :: rest) :
    ∃ a, trampolineAddr? s.cfg v = some a ∧
      step s = .next ((s.withInputs rest).takeTrap v ctx (encodeDesc s.cfg.kernelCs a gateAttr)) := by
  obtain ⟨a, ha⟩ := exists_trampolineAddr? s.cfg hv
  have hslot : (s.withInputs rest).slot v = encodeDesc s.cfg.kernelCs a gateAttr := h.slot_eq_gate hi ha
  have hpresent : encodeDesc s.cfg.kernelCs a gateAttr ≠ 0 := encodeDesc_ne_zero _ _ (by decide)
  refine ⟨a, ha, ?_⟩
  rw [step_of_deliver hs hq, State.deliver_of_pointer (s := s.withInputs rest) hi (h.tp_eq hi), hslot,
    if_neg hpresent]

/-- A dispatch of trap number 32 is TIMER (42_dispatcher.md R142). -/
theorem State.dispatchRecord_of_timer (s : State) {r : TrapRecord} (h : r.trapno = 32) :
    s.dispatchRecord r = s.timerAction := by
  rw [State.dispatchRecord_eq, if_pos h]

/-- A dispatch of trap number 39 is SPURIOUS_CHECK (42_dispatcher.md R143). -/
theorem State.dispatchRecord_of_spurious (s : State) {r : TrapRecord} (h : r.trapno = 39) :
    s.dispatchRecord r = s.spuriousAction := by
  have h32 : r.trapno ≠ 32 := by rw [h]; decide
  rw [State.dispatchRecord_eq, if_neg h32, if_pos h]

/-- The record that a trap captures has the vector as its trap number (R176). -/
@[simp] theorem captureRecord_trapno (v : Byte) (ctx : Context) (errcode : I64) :
    (captureRecord v ctx errcode).trapno = v.setWidth 64 := rfl

section Gate
variable (s : State) (ctx : Context) (kernelCs : U16) (a : U64)

/-- A trap through a gate whose dispatch returns resumes its context (R184). -/
theorem State.takeTrap_gate_of_returns {v : Byte} (hv : v = 32 ∨ v = 39) :
    s.takeTrap v ctx (encodeDesc kernelCs a gateAttr) =
      { s.dispatchRecord (captureRecord v ctx (Config.errcodeDraw s.deliveries)) with
        frame := none
        deliveries := s.deliveries + 1
        cpuTrace := s.cpuTrace ++ [.enter a kernelCs, .resume ctx] } := by
  have hreturns : v.setWidth 64 = (32 : I64) ∨ v.setWidth 64 = (39 : I64) := by
    obtain rfl | rfl := hv
    · exact .inl rfl
    · exact .inr rfl
  rw [s.takeTrap_eq v ctx _ _ rfl, captureRecord_trapno, if_pos hreturns, descAddr_encodeDesc, descSelector_encodeDesc]

/-- A trap through a gate whose dispatch halts leaves its record standing and interrupts masked (R183). -/
theorem State.takeTrap_gate_of_fatal {v : Byte} (h32 : v ≠ 32) (h39 : v ≠ 39) :
    s.takeTrap v ctx (encodeDesc kernelCs a gateAttr) =
      { s.fatalAction with
        frame := some ⟨captureRecord v ctx (Config.errcodeDraw s.deliveries), s.intEnabled⟩
        intEnabled := false
        deliveries := s.deliveries + 1
        cpuTrace := s.cpuTrace ++ [.enter a kernelCs] } := by
  have hfatal : ¬ (v.setWidth 64 = (32 : I64) ∨ v.setWidth 64 = (39 : I64)) := by
    rintro (h | h)
    · exact h32 (by bv_omega)
    · exact h39 (by bv_omega)
  rw [s.takeTrap_eq v ctx _ _ rfl, captureRecord_trapno, if_neg hfatal, s.dispatchRecord_of_fatal hfatal,
    descAddr_encodeDesc, descSelector_encodeDesc]

end Gate

/-- Settles O36: the record's trap number is 32, which selects TIMER, and no frame stood before. -/
theorem deliveredTimerResumesTheContext : Obligations.DeliveredTimerResumesTheContext := by
  intro s ctx rest h hs hi hq
  obtain ⟨a, ha, hstep⟩ := step_of_deliver_supported h hs hi (by decide) hq
  refine ⟨a, ha, ?_⟩
  rw [hstep, State.takeTrap_gate_of_returns _ _ _ _ (.inl rfl), State.dispatchRecord_of_timer _ rfl,
    State.timerAction_eq, ← h.frame_eq_none hs]
  rfl

/-- Settles O37: the record's trap number is 39, which selects SPURIOUS_CHECK, and no frame stood before. -/
theorem deliveredSpuriousResumesTheContext : Obligations.DeliveredSpuriousResumesTheContext := by
  intro s ctx rest h hs hi hq
  obtain ⟨a, ha, hstep⟩ := step_of_deliver_supported h hs hi (by decide) hq
  refine ⟨a, s.isrByte, none, s.isrReads + 1, ha, ?_⟩
  rw [hstep, State.takeTrap_gate_of_returns _ _ _ _ (.inr rfl), State.dispatchRecord_of_spurious _ rfl,
    State.spuriousAction_eq_spuriousEvents, ← h.frame_eq_none hs]
  rfl

/-- Settles O38: the record's trap number is the vector, which selects FATAL. -/
theorem deliveredFatalHaltsWithItsRecord : Obligations.DeliveredFatalHaltsWithItsRecord := by
  intro s v ctx rest h hs hi hv h32 h39 hq
  obtain ⟨a, ha, hstep⟩ := step_of_deliver_supported h hs hi hv hq
  refine ⟨a, Config.errcodeDraw s.deliveries, ha, ?_⟩
  rw [hstep, State.takeTrap_gate_of_fatal _ _ _ _ h32 h39]
  rfl

/-! ### What a step faults for (60_exceptions.md R173, 70_reset_and_hazards.md R211) -/

theorem exec_ne_fault (i : Instr) (s : State) (f : Fault) : exec i s ≠ .fault f := by
  cases i <;> nofun

theorem runCommand_ne_fault (image : List Byte) (s : State) (f : Fault) : runCommand image s ≠ .fault f := by
  rw [runCommand]
  split
  · exact exec_ne_fault _ s f
  all_goals nofun

/-- Under the invariant a delivery finds `installed` false or the legal pointer, and answers a next state either way. -/
theorem State.Inv.deliver_ne_fault {s : State} (h : s.Inv) (v : Byte) (ctx : Context) (f : Fault) :
    s.deliver v ctx ≠ .fault f := by
  by_cases hi : s.installed = true
  · rw [State.deliver_of_pointer hi (h.tp_eq hi)]
    nofun
  · rw [State.deliver_of_not_installed (Bool.eq_false_of_not_eq_true hi)]
    nofun

theorem State.Inv.takeInput_ne_fault {s : State} (h : s.Inv) (i : Input) (f : Fault) :
    takeInput i s ≠ .fault f := by
  cases i with
  | command image => exact runCommand_ne_fault image s f
  | deliver v ctx => exact h.deliver_ne_fault v ctx f
  | isr b => nofun
  | enableInterrupts => nofun

/-- In a sound state a step faults for the sticky fault alone (30_encoding.md R82). -/
theorem State.Inv.fault_of_step {s : State} (h : s.Inv) {f : Fault} (hstep : step s = .fault f) :
    ∃ k, f = .faulted k := by
  rw [step, sequenceStep] at hstep
  split at hstep
  case h_1 k _ =>
    injection hstep with hstep
    exact ⟨k, hstep.symm⟩
  case h_5 i rest _ _ _ _ =>
    exact absurd hstep (State.Inv.takeInput_ne_fault (s := s.withInputs rest) h i f)
  all_goals cases hstep

/-- Settles O49: none of the three is the sticky fault. -/
theorem soundStatesNeverMisreadTheTable : Obligations.SoundStatesNeverMisreadTheTable := by
  intro s h
  have hne : ∀ f : Fault, (∀ k, f ≠ .faulted k) → step s ≠ .fault f := by
    intro f hf hstep
    obtain ⟨k, hk⟩ := h.fault_of_step hstep
    exact hf k hk
  exact ⟨hne _ nofun, hne _ nofun, hne _ nofun⟩

end Sys2Proof.Machine

namespace Sys2Proof.Machine

/-! ### Waiting in IDLE (70_reset_and_hazards.md R212) -/

theorem step_of_idle_nothing_queued {s : State} (hs : s.accepting) (hq : s.inputs = []) : step s = .next s := by
  obtain ⟨hc, hf, hr⟩ := hs
  simp only [step, sequenceStep, hc, hf, hr, hq]

/-- Settles O31: a state that waits once waits for good. -/
theorem idleWaitsForACommand : Obligations.IdleWaitsForACommand :=
  fun _ hs hq => run_of_waits (M := core) (step_of_idle_nothing_queued hs hq)

/-! ### The state after reset (70_reset_and_hazards.md R210) -/

/-- A reset machine's table is the empty memory, its pointer is unwritten, it is IDLE, and its trace is empty. -/
theorem State.inv_resetWith (c : Config) : (State.resetWith c).Inv := by
  have hmem : (State.resetWith c).memInv := ⟨rfl, List.forall_mem_nil _⟩
  have htable : (State.resetWith c).tableInv := ⟨rfl, rfl⟩
  have hctl : (State.resetWith c).ctlInv := (State.ctlInv_of_idle rfl).2 ⟨List.not_mem_nil, rfl⟩
  have htrace : (State.resetWith c).traceInv := ⟨iff_of_false nofun List.not_mem_nil, nofun⟩
  exact ⟨hmem, htable, hctl, htrace⟩

/-- Settles O40: the machine's own reset is that of the platform's configuration. -/
theorem resetIsSound : Obligations.ResetIsSound :=
  ⟨State.inv_resetWith Config.platform, State.inv_resetWith⟩

/-- Settles O41: the table is the empty memory, whose slots are zero; the rest is written out in `State.resetWith`. -/
theorem resetIsAsTheSpecSays : Obligations.ResetIsAsTheSpecSays :=
  fun c => ⟨Memory.slot_nil c.idtBase, rfl, rfl, rfl, rfl, rfl, rfl, rfl⟩

/-! ### The good end of a run (70_reset_and_hazards.md R227) -/

/-- Settles O46: an accepting state that meets the invariant has no frame standing. -/
theorem goodEndsAreTheAcceptingStates : Obligations.GoodEndsAreTheAcceptingStates :=
  fun _ h => ⟨fun ⟨hs, _⟩ => hs, fun hs => ⟨hs, h.frame_eq_none hs⟩⟩

end Sys2Proof.Machine
